-- ==== Sys2Proof/Word.lean ====
section
/-! DEFINITION. The machine's word types (spec/00_scope.md R10: host registers are 32 bits, every
buffer element and every channel unit is one 8-bit byte). -/

namespace Sys2Proof

/-- A host register: 32 bits (R10). -/
abbrev Word := BitVec 32

/-- A buffer element or a channel unit: 8 bits (R10). -/
abbrev Byte := BitVec 8

/-- A bit as one byte-wide 0 or 1 of `n` bits, for packing status words. -/
abbrev bit (n : Nat) (b : Bool) : BitVec n := (BitVec.ofBool b).setWidth n

end Sys2Proof
end

