-- ==== Sys2Proof/Config.lean ====
section
/-! DEFINITION. The configuration parameters of spec/00_scope.md R8 and R9, the reference
configuration a reset machine has, and the free values: what the spec leaves open, as opaque
constants of which nothing can be proved. -/

namespace Sys2Proof

/-- The parameters of one model instance (R8), fixed for its life. -/
structure Config where
  /-- `W`, bitmap width in pixels. -/
  w : Nat
  /-- `H`, bitmap height in pixels. -/
  h : Nat
  /-- `TOKEN_CAP`, capacity in bytes of ACKBUF and of STRBUF. -/
  tokenCap : Nat
  /-- `TX_CAP`, capacity in bytes of TXBUF. -/
  txCap : Nat
  /-- `PAYLOAD_CAP`, capacity in bytes of PAYLOAD. -/
  payloadCap : Nat
  /-- `EMPTY_LIMIT`, consecutive empty channel reads that make a read time out. -/
  emptyLimit : Nat
  /-- `FONT_FAMILY_SEL`, selector byte of the font-family-select escape. -/
  fontSel : Byte
  /-- `PITCH_SEL`, selector byte of the pitch-select escape. -/
  pitchSel : Byte
  deriving DecidableEq, Repr

/-- The constraints of R8 (the table's legal values) and R9 (the two free selectors differ from each
other and from the three fixed selectors 0x40, 0x2A and 0x41). -/
abbrev Config.Legal (c : Config) : Prop :=
  (8 ≤ c.w ∧ c.w ≤ 65528 ∧ c.w % 8 = 0) ∧
  (1 ≤ c.h ∧ c.h ≤ 65535) ∧
  (1 ≤ c.tokenCap ∧ c.tokenCap ≤ 65535) ∧
  (1 ≤ c.txCap ∧ c.txCap ≤ 65535) ∧
  (1 ≤ c.payloadCap ∧ c.payloadCap ≤ 2 ^ 28) ∧
  (1 ≤ c.emptyLimit ∧ c.emptyLimit ≤ 2 ^ 32 - 1) ∧
  (c.fontSel ≠ c.pitchSel ∧
    c.fontSel ≠ 0x40 ∧ c.fontSel ≠ 0x2A ∧ c.fontSel ≠ 0x41 ∧
    c.pitchSel ≠ 0x40 ∧ c.pitchSel ≠ 0x2A ∧ c.pitchSel ≠ 0x41)

/-- FREE VALUE. The parameter `EMPTY_LIMIT` is OPEN (R8, spec/92_eei_decisions.md D7): the spec gives
it no default, so no value is chosen here (notes/assumptions/2.md). -/
opaque Config.openEmptyLimit : Nat

/-- FREE VALUE. The `n`-th draw of an unspecified 32-bit value (spec/10_state.md R22, R26;
notes/assumptions/7.md). -/
opaque Config.drawWord : Nat → Word

/-- FREE VALUE. The `n`-th draw of an unspecified byte (spec/20_memory.md R61;
notes/assumptions/7.md). -/
opaque Config.drawByte : Nat → Byte

/-- FREE VALUE. The OPEN parameter `FRD_BASE` (spec/20_memory.md R71; notes/assumptions/21.md). -/
opaque Config.frdBase : Nat

/-- FREE VALUE. The OPEN parameter `CREATOR_COMMENT` (spec/42_bitmap_sink.md R201). DESIGN CHOICE: R201
gives it no legal set, and the model admits any byte list, line feeds and non-ASCII bytes included
(notes/assumptions/20.md). -/
opaque Config.creatorComment : List Byte

/-- The configuration of the machine that `State.reset` describes: the defaults of R8, and for
`EMPTY_LIMIT`, which has none, a free value brought into its legal range 1 to 2^32 - 1. The defaults
0x6B and 0x50 are the spec's own general knowledge (notes/assumptions/3.md). -/
def Config.reference : Config where
  w := 240
  h := 240
  tokenCap := 256
  txCap := 64
  payloadCap := 16384
  emptyLimit := Config.openEmptyLimit % (2 ^ 32 - 1) + 1
  fontSel := 0x6B
  pitchSel := 0x50

end Sys2Proof
end

