-- ==== Sys2Proof/Machine/State.lean ====
section
/-! DEFINITION. The state of the machine as plain data (spec/10_state.md, spec/20_memory.md R60,
spec/70_reset_and_hazards.md R242), with the host and the channel as data beside it (R16), the reasons
a step can stop, and the state after reset. -/

namespace Sys2Proof.Machine

/-! ## Buffers -/

/-- A byte buffer (R60): its bytes by index, in one canonical form (Ops.lean, `Memory.wf`): indices
strictly rising, and no byte listed that equals what an unlisted index reads as. -/
abbrev Memory := List Host.Cell

/-- The five buffers of R60. -/
inductive Space where
  | txbuf | ackbuf | strbuf | payload | bitmap
  deriving DecidableEq, Repr

/-- The contents of the five buffers (R60). -/
structure Buffers where
  txbuf : Memory
  ackbuf : Memory
  strbuf : Memory
  payload : Memory
  bitmap : Memory
  deriving DecidableEq, Repr

/-! ## Registers -/

/-- The values of STATUS.ERR (R210); 7 to 15 are never produced, so they have no constructor. -/
inductive ErrCode where
  /-- 0, NONE. -/
  | noError
  /-- 1, READ_FAIL. -/
  | readFail
  /-- 2, READ_TIMEOUT. -/
  | readTimeout
  /-- 3, WRITE_FAIL. -/
  | writeFail
  /-- 4, TOKEN_OVERFLOW. -/
  | tokenOverflow
  /-- 5, LENGTH_FORMAT. -/
  | lengthFormat
  /-- 6, BAD_COMMAND. -/
  | badCommand
  deriving DecidableEq, Repr

/-- The fields of STATUS (R25) but BUSY, whose one home is `State.phase` (notes/assumptions/12.md). -/
structure Status where
  /-- DONE [1]. -/
  done : Bool
  /-- HOST_ERR [2]. -/
  hostErr : Bool
  /-- ERR [7:4]. -/
  err : ErrCode
  /-- CHK_VALID [8]. -/
  chkValid : Bool
  /-- CHK_OK [9]. -/
  chkOk : Bool
  /-- ACK_VALID [10]. -/
  ackValid : Bool
  /-- ACK_OK [11]. -/
  ackOk : Bool
  /-- PAY_TRUNC [12]. -/
  payTrunc : Bool
  /-- MALFORMED [13]. -/
  malformed : Bool
  deriving DecidableEq, Repr

/-- The host registers that hold state (R21, R27 to R35). -/
structure HostRegs where
  /-- BLKLEN, offset 0x08 (R27). -/
  blklen : Word
  /-- TXLEN, offset 0x0C (R28). -/
  txlen : Word
  /-- ACKLEN, offset 0x10 (R29). -/
  acklen : Word
  /-- STRLEN, offset 0x14 (R30). -/
  strlen : Word
  /-- PAYLEN, offset 0x18 (R31). -/
  paylen : Word
  /-- CHKSUM.SUM, offset 0x1C [7:0] (R32). -/
  sum : Byte
  /-- CHKSUM.RXCHK, offset 0x1C [15:8] (R32). -/
  rxchk : Byte
  /-- YCUR, offset 0x20 (R33). -/
  ycur : Word
  /-- UNREC, offset 0x24 (R34). -/
  unrec : Word
  /-- DECPOS, offset 0x28 (R35). -/
  decpos : Word
  deriving DecidableEq, Repr

/-- The fields of the accepted command word that R88 latches. -/
structure Latch where
  stop : Byte
  bufsel : Bool
  kind : Bool
  deriving DecidableEq, Repr

/-! ## PHASE (R43): Idle or Running(op, phase), the phase named after the step of the operation's rule -/

/-- Where `ReadToken` (R118) stands: before its first line, or in its loop. -/
inductive TokenPhase where
  | start | loop
  deriving DecidableEq, Repr

/-- Where `ReadBlock` (R124) stands: before its first line, or reading its bytes. -/
inductive BlockPhase where
  | start | loop
  deriving DecidableEq, Repr

/-- Where READ_FRAME's body (R130) stands: the length token, `ParseDecimal`, or the block. -/
inductive FramePhase where
  | token (t : TokenPhase)
  | parse
  | block (b : BlockPhase)
  deriving DecidableEq, Repr

/-- Where TRANSACT.S (R140) stands: the write, the ack token, or the second string. -/
inductive SimplePhase where
  | send
  | ack (t : TokenPhase)
  | second (t : TokenPhase)
  deriving DecidableEq, Repr

/-- Where TRANSACT.G (R141) stands: the write, the ack token, or the frame. -/
inductive GraphicsPhase where
  | send
  | ack (t : TokenPhase)
  | frame (f : FramePhase)
  deriving DecidableEq, Repr

/-- Where DECODE (R160) stands: before `ClearBitmap`, or in its loop. -/
inductive DecodePhase where
  | clear | loop
  deriving DecidableEq, Repr

/-- PHASE (R43). -/
inductive Phase where
  | idle
  | nop
  | readUntil (t : TokenPhase)
  | readBlock (b : BlockPhase)
  | readFrame (f : FramePhase)
  | send
  | transactS (p : SimplePhase)
  | transactG (p : GraphicsPhase)
  | decode (p : DecodePhase)
  deriving DecidableEq, Repr

/-! ## Internal registers -/

/-- The frame reader's internal registers (R43). -/
structure FrameReader where
  /-- EMPTYCNT, consecutive `Empty` results of the current read. -/
  emptycnt : Word
  /-- OVF, the current token has overflowed its buffer. -/
  ovf : Bool
  /-- REMAIN, data bytes of the current block still to read. -/
  remain : Word
  /-- IDX, data bytes of the current block read so far. -/
  idx : Word
  /-- SUMACC, running sum modulo 256 of the block's data bytes. -/
  sumacc : Byte
  deriving DecidableEq, Repr

/-- PSTATE (R44). -/
inductive PState where
  | text | esc | biMode | biNl | biNh | biData | operand
  deriving DecidableEq, Repr

/-- The raster decoder's internal registers (R23, R44). -/
structure Raster where
  /-- POS, the PAYLOAD index of the next byte: the program counter of the escape stream (R23). -/
  pos : Word
  /-- PSTATE. -/
  pstate : PState
  /-- NL, the low count byte while BI_NH is pending. -/
  nl : Byte
  /-- NX, the column count of the current bit-image command. -/
  nx : BitVec 16
  /-- XC, the index of its next column. -/
  xc : BitVec 16
  /-- CMDSTART, the PAYLOAD index of the escape byte of the current command. -/
  cmdstart : Word
  deriving DecidableEq, Repr

/-! ## The other agents (R16): the model's own fields, not the spec's -/

/-- One access the host makes (R22, R61). A register access carries its width in bits and its byte
offset, so that an access the interface does not have can be told from one it has. -/
inductive HostAccess where
  | regRead (width off : Nat)
  | regWrite (width off : Nat) (v : Word)
  | memRead (sp : Space) (i : Nat)
  | memWrite (sp : Space) (i : Nat) (v : Byte)
  deriving DecidableEq, Repr

/-- Which agent moves next (R73's total order of steps; notes/assumptions/4.md). -/
inductive Turn where
  /-- One step of the block. -/
  | block
  /-- One access of the host. -/
  | host (a : HostAccess)
  /-- The reset input (R240). -/
  | reset
  deriving DecidableEq, Repr

/-- An answer to `ChRead()` (R226). -/
inductive ReadAnswer where
  | byte (b : Byte)
  | empty
  | fail
  deriving DecidableEq, Repr

/-- An answer to `ChWrite(s)` (R226): `ok k` says that k bytes were written. -/
inductive WriteAnswer where
  | ok (k : Nat)
  | fail
  deriving DecidableEq, Repr

/-- The value a host read returned (R22, R61). -/
inductive Reply where
  | word (v : Word)
  | byte (v : Byte)
  deriving DecidableEq, Repr

/-- The host and the channel as data: what they will do, and what they have seen. -/
structure Environment where
  /-- The schedule; when it is exhausted the block moves. -/
  turns : List Turn
  /-- The channel's answers to `ChRead` still to come, in order. -/
  reads : List ReadAnswer
  /-- The channel's answers to `ChWrite` still to come, in order. -/
  writes : List WriteAnswer
  /-- The byte strings the block has written, newest first. -/
  sent : List (List Byte)
  /-- The values host reads have returned, newest first. -/
  replies : List Reply
  /-- How many draws have been made: the argument of the next one. -/
  draws : Nat
  deriving DecidableEq, Repr

/-! ## The state -/

/-- The whole machine. `cfg` is the instance's configuration, which no step changes
(notes/assumptions/1.md); `env` is the other two agents; everything else is the block. -/
structure State where
  cfg : Config
  phase : Phase
  status : Status
  regs : HostRegs
  bufs : Buffers
  latch : Latch
  fr : FrameReader
  rd : Raster
  env : Environment
  deriving DecidableEq, Repr

/-- Reasons a step stops with a fault. -/
inductive Fault where
  /-- Raised by the block's own buffer accesses (`State.blockRead`, `State.blockWrite`, `pixWrite`) when
  the index is outside the buffer: "a model that reaches one has a bug and must fault, not wrap" (R62).
  Safe: the machine stops where the spec says nothing happens, and the invariant rules it out. -/
  | blockAccess (sp : Space) (i : Nat)
  deriving DecidableEq, Repr

/-- Reasons a step has no meaning. -/
inductive Refusal where
  /-- Raised by no meaning: the name an arm of `exec` would answer for an instruction without one. Every
  instruction has one. Safe. -/
  | notModelled (mnemonic : String)
  /-- Raised by a host register access of a width other than 32 bits or at an offset that is not a
  multiple of 4 in 0x000 to 0xFFC: "not an access the interface has: the model refuses it" (R22). Safe:
  the spec gives it no transition. -/
  | noSuchAccess
  deriving DecidableEq, Repr

/-! ## Reset (R242) -/

/-- The host and the channel before anything has happened: nothing scheduled, nothing answered. -/
def Environment.silent : Environment where
  turns := []
  reads := []
  writes := []
  sent := []
  replies := []
  draws := 0

/-- Every piece of the block's state at its reset value (R242), in the configuration `c`, with the
host and the channel silent. -/
def State.resetWith (c : Config) : State where
  cfg := c
  phase := .idle
  status := {
    done := false, hostErr := false, err := .noError, chkValid := false, chkOk := false,
    ackValid := false, ackOk := false, payTrunc := false, malformed := false }
  regs := {
    blklen := 0, txlen := 0, acklen := 0, strlen := 0, paylen := 0, sum := 0, rxchk := 0,
    ycur := 0, unrec := 0, decpos := 0 }
  bufs := { txbuf := [], ackbuf := [], strbuf := [], payload := [], bitmap := [] }
  latch := { stop := 0, bufsel := false, kind := false }
  fr := { emptycnt := 0, ovf := false, remain := 0, idx := 0, sumacc := 0 }
  rd := { pos := 0, pstate := .text, nl := 0, nx := 0, xc := 0, cmdstart := 0 }
  env := Environment.silent

/-- The instance of a configuration: none for an illegal one, "the model has no instance for it" (R9,
I17). -/
def State.ofConfig (c : Config) : Option State :=
  if c.Legal then some (State.resetWith c) else none

/-- The machine right after reset, in the reference configuration. -/
def State.reset : State := State.resetWith Config.reference

end Sys2Proof.Machine
end

