-- ==== Sys2Proof/Machine/Ops.lean ====
section
/-! DEFINITION. The named operations every meaning is built from: byte buffers (spec/20_memory.md), the
acceptance and rejection of a command (spec/30_encoding.md R88, spec/60_exceptions.md R213), the end of
an operation with and without an error (R214, R216), and the way a step of an operation reports where it
stands. -/

namespace Sys2Proof.Machine

/-! ## One buffer -/

/-- What an index of a buffer that lists no byte reads as: 0x00, the reset value of every byte (R60,
R242). -/
def unlistedByte : Byte := 0

/-- The byte at an index. -/
def Memory.read : Memory → Nat → Byte
  | [], _ => unlistedByte
  | (b, v) :: m, a => if a = b then v else Memory.read m a

/-- Store a byte, keeping the canonical form: storing what an unlisted index reads as removes the
entry. -/
def Memory.write : Memory → Nat → Byte → Memory
  | [], a, v => if v = unlistedByte then [] else [(a, v)]
  | (b, u) :: m, a, v =>
    if a < b then (if v = unlistedByte then (b, u) :: m else (a, v) :: (b, u) :: m)
    else if a = b then (if v = unlistedByte then m else (a, v) :: m)
    else (b, u) :: Memory.write m a v

/-- Store the bytes of a list at consecutive indices. -/
def Memory.store : Memory → Nat → List Byte → Memory
  | m, _, [] => m
  | m, a, v :: vs => Memory.store (Memory.write m a v) (a + 1) vs

/-- Every index listed is above `a`, the indices rise strictly, and no listed byte is the unlisted
one. -/
def Memory.wfAbove : Nat → Memory → Bool
  | _, [] => true
  | a, (b, v) :: m => decide (a < b) && decide (v ≠ unlistedByte) && Memory.wfAbove b m

/-- The canonical form: indices strictly rising, no listed byte equal to the unlisted one. Equal
contents are equal lists. -/
def Memory.wf : Memory → Bool
  | [] => true
  | (a, v) :: m => decide (v ≠ unlistedByte) && Memory.wfAbove a m

/-- Every index listed is inside a buffer of `n` bytes. -/
def Memory.within (n : Nat) (m : Memory) : Bool := m.all fun p => decide (p.1 < n)

/-! ## The five buffers -/

/-- The size in bytes of a buffer (R60). -/
def Space.size (c : Config) : Space → Nat
  | .txbuf => c.txCap
  | .ackbuf => c.tokenCap
  | .strbuf => c.tokenCap
  | .payload => c.payloadCap
  | .bitmap => c.h * c.w / 8

/-- The contents of a buffer. -/
def Buffers.get (b : Buffers) : Space → Memory
  | .txbuf => b.txbuf
  | .ackbuf => b.ackbuf
  | .strbuf => b.strbuf
  | .payload => b.payload
  | .bitmap => b.bitmap

/-- Replace the contents of a buffer. -/
def Buffers.set (b : Buffers) (sp : Space) (m : Memory) : Buffers :=
  match sp with
  | .txbuf => { b with txbuf := m }
  | .ackbuf => { b with ackbuf := m }
  | .strbuf => { b with strbuf := m }
  | .payload => { b with payload := m }
  | .bitmap => { b with bitmap := m }

/-- The byte of a buffer at an index, as the state holds it: no access, only what is there. -/
def State.byteAt (s : State) (sp : Space) (i : Nat) : Byte := Memory.read (s.bufs.get sp) i

/-- Replace one buffer's contents. -/
def State.setBuf (s : State) (sp : Space) (m : Memory) : State :=
  { s with bufs := s.bufs.set sp m }

/-- `MemRead(SPACE, i, 1)`, the block's own read (R13, R62): outside the buffer it faults. -/
def State.blockRead (s : State) (sp : Space) (i : Nat) : Except Fault Byte :=
  if i < sp.size s.cfg then .ok (s.byteAt sp i) else .error (.blockAccess sp i)

/-- `MemWrite(SPACE, i, 1, v)`, the block's own write (R13, R62): outside the buffer it faults. -/
def State.blockWrite (s : State) (sp : Space) (i : Nat) (v : Byte) : Except Fault State :=
  if i < sp.size s.cfg then .ok (s.setBuf sp (Memory.write (s.bufs.get sp) i v))
  else .error (.blockAccess sp i)

/-- `count` bytes of a buffer from index `i` on, each read by the block. -/
def State.blockReadMany (s : State) (sp : Space) : (count i : Nat) → Except Fault (List Byte)
  | 0, _ => .ok []
  | n + 1, i =>
    match s.blockRead sp i with
    | .error f => .error f
    | .ok b =>
      match s.blockReadMany sp n (i + 1) with
      | .error f => .error f
      | .ok bs => .ok (b :: bs)

/-! ## Starting an operation -/

/-- STATUS.BUSY: an operation runs (R25, R45; notes/assumptions/12.md). -/
def State.busy (s : State) : Bool := decide (s.phase ≠ .idle)

/-- The acceptance step, common to every operation (R88): BUSY <- 1, DONE <- 0, HOST_ERR <- 0, ERR <- 0,
the word's fields latched, and the operation's first phase entered. -/
def State.accept (s : State) (l : Latch) (p : Phase) : State :=
  { s with
    phase := p
    status := { s.status with done := false, hostErr := false, err := .noError }
    latch := l }

/-- The rejection of a bad word (R213): DONE <- 1, ERR <- BAD_COMMAND, HOST_ERR <- 0, BUSY stays 0, and
nothing else changes. -/
def State.reject (s : State) : State :=
  { s with status := { s.status with done := true, hostErr := false, err := .badCommand } }

/-- A host access the block ignores: HOST_ERR <- 1 and nothing else (R22, R61). -/
def State.ignoreAccess (s : State) : State :=
  { s with status := { s.status with hostErr := true } }

/-! ## Ending an operation: the block's exceptions and its return -/

/-- `raise Err(code)` (R214): ERR <- code, BUSY <- 0, DONE <- 1, PHASE <- Idle; every earlier effect
stays. -/
def State.raiseErr (s : State) (e : ErrCode) : State :=
  { s with phase := .idle, status := { s.status with done := true, err := e } }

/-- `finish()` (R216): BUSY <- 0, DONE <- 1, PHASE <- Idle; ERR stays what acceptance made it. -/
def State.finish (s : State) : State :=
  { s with phase := .idle, status := { s.status with done := true } }

/-- The reset step (R240 to R242): every piece of the block's state at its reset value; the channel,
the host and the configuration stay (R241; notes/assumptions/23.md). -/
def State.resetBlock (s : State) : State := { State.resetWith s.cfg with env := s.env }

/-! ## Fields of the environment and of the frame reader -/

/-- Replace the schedule. -/
def State.setTurns (s : State) (ts : List Turn) : State :=
  { s with env := { s.env with turns := ts } }

/-- Replace the channel answers still to come. -/
def State.setReads (s : State) (rs : List ReadAnswer) : State :=
  { s with env := { s.env with reads := rs } }

/-- Replace EMPTYCNT. -/
def State.setEmptycnt (s : State) (n : Word) : State :=
  { s with fr := { s.fr with emptycnt := n } }

/-- Enter a phase of the running operation. -/
def State.enter (s : State) (p : Phase) : State := { s with phase := p }

/-! ## Steps of an operation -/

/-- Where one step of a procedure of an operation leaves it. -/
inductive Progress (π : Type) where
  /-- The channel has not answered: the step is not taken (R227, R255). -/
  | wait
  /-- The operation has ended with an error (R214). -/
  | ended (s : State)
  /-- The procedure goes on, in phase `p`. -/
  | more (p : π) (s : State)
  /-- The procedure has returned. -/
  | done (s : State)

/-- Run a procedure inside another: its phases and its return are phases of the outer one. -/
def Progress.within {π ρ : Type} (into : π → ρ)
    (ret : State → Except Fault (Progress ρ)) :
    Except Fault (Progress π) → Except Fault (Progress ρ)
  | .error f => .error f
  | .ok .wait => .ok .wait
  | .ok (.ended t) => .ok (.ended t)
  | .ok (.more p t) => .ok (.more (into p) t)
  | .ok (.done t) => ret t

/-- One step of an operation from the step of its body: a wait leaves the state as it is, and the
body's return is `finish()` (R216). -/
def conclude {π : Type} (s : State) (into : π → Phase) :
    Except Fault (Progress π) → Host.Outcome State Fault Refusal
  | .error f => .fault f
  | .ok .wait => .next s
  | .ok (.ended t) => .next t
  | .ok (.more p t) => .next (t.enter (into p))
  | .ok (.done t) => .next t.finish

/-- A step that only the block's own buffer accesses can stop. -/
def unlessFault : Except Fault State → Host.Outcome State Fault Refusal
  | .error f => .fault f
  | .ok t => .next t

end Sys2Proof.Machine
end

