-- ==== Sys2Proof/Machine/BadCommand.lean ====
section
/-! DEFINITION. The bad command words (spec/30_encoding.md R87 (a), (b); spec/60_exceptions.md R213). -/

namespace Sys2Proof.Machine

/-- A bad word written to CMD: rejected while idle (R213), an ignored access while busy (R22). -/
def State.badWord (s : State) : State := if s.busy then s.ignoreAccess else s.reject

/-- A word with the reserved OP 0x7 (R213). -/
def execBadOp7 (_rest : BitVec 28) (s : State) : Host.Outcome State Fault Refusal :=
  .next s.badWord

/-- A word with a reserved OP 0x8 to 0xF (R213). -/
def execBadOp8F (_low : BitVec 3) (_rest : BitVec 28) (s : State) :
    Host.Outcome State Fault Refusal :=
  .next s.badWord

/-- A word with a nonzero reserved field (R213). -/
def execBadReserved (_op _lo : BitVec 4) (_mid : BitVec 10) (_hi : BitVec 14) (s : State) :
    Host.Outcome State Fault Refusal :=
  .next s.badWord

end Sys2Proof.Machine
end

