-- ==== Sys2Proof/Machine/Flags.lean ====
section
/-! DEFINITION. Every flag of STATUS (spec/10_state.md R25, R26): its place in the word, what clears it
at acceptance (spec/30_encoding.md R89), and the computations of CHK_OK, ACK_OK and MALFORMED. -/

namespace Sys2Proof.Machine

/-- The value of an error code in STATUS.ERR (R210). -/
def ErrCode.code : ErrCode → BitVec 4
  | .noError => 0
  | .readFail => 1
  | .readTimeout => 2
  | .writeFail => 3
  | .tokenOverflow => 4
  | .lengthFormat => 5
  | .badCommand => 6

/-- STATUS as the host reads it while the block is idle (R25): reserved bits 0, BUSY the given bit. -/
def Status.word (st : Status) (busy : Bool) : Word :=
  (0 : BitVec 18) ++ BitVec.ofBool st.malformed ++ BitVec.ofBool st.payTrunc
    ++ BitVec.ofBool st.ackOk ++ BitVec.ofBool st.ackValid
    ++ BitVec.ofBool st.chkOk ++ BitVec.ofBool st.chkValid
    ++ st.err.code ++ (0 : BitVec 1)
    ++ BitVec.ofBool st.hostErr ++ BitVec.ofBool st.done ++ BitVec.ofBool busy

/-- STATUS as the host reads it while an operation runs (R26): BUSY = 1, DONE = 0, HOST_ERR its current
value, ERR and the fields [13:8] from the draw `d`, and reserved bits 0 (R41). -/
def Status.busyWord (st : Status) (d : Word) : Word :=
  (d &&& 0x3FF0#32) ||| ((BitVec.ofBool st.hostErr).setWidth 32 <<< 2) ||| 1#32

/-- The clears of R89 for READ_BLOCK and READ_FRAME: CHK_VALID, CHK_OK, PAY_TRUNC, CHKSUM. -/
def State.clearBlockResults (s : State) : State :=
  { s with
    status := { s.status with chkValid := false, chkOk := false, payTrunc := false }
    regs := { s.regs with sum := 0, rxchk := 0 } }

/-- The clears of R89 for TRANSACT, both kinds: those of a block, ACK_VALID, ACK_OK and STRLEN. -/
def State.clearTransactResults (s : State) : State :=
  { s with
    status := { s.status with
      chkValid := false, chkOk := false, payTrunc := false, ackValid := false, ackOk := false }
    regs := { s.regs with sum := 0, rxchk := 0, strlen := 0 } }

/-- The clears of R89 for DECODE: MALFORMED, YCUR, UNREC. -/
def State.clearDecodeResults (s : State) : State :=
  { s with
    status := { s.status with malformed := false }
    regs := { s.regs with ycur := 0, unrec := 0 } }

/-- The end of `ReadBlock` (R124), on the checksum byte `c`: CHKSUM, CHK_VALID and CHK_OK. -/
def State.recordChecksum (s : State) (c : Byte) : State :=
  { s with
    status := { s.status with chkValid := true, chkOk := decide (s.fr.sumacc = c) }
    regs := { s.regs with sum := s.fr.sumacc, rxchk := c } }

/-- `AckOk()` (R142): the ack token has a first byte and it is 0x30. -/
def State.ackIsOk (s : State) : Except Fault Bool :=
  if 1 ≤ s.regs.acklen.toNat then
    match s.blockRead .ackbuf 0 with
    | .error f => .error f
    | .ok b => .ok (decide (b = 0x30))
  else .ok false

/-- ACK_VALID <- 1 and ACK_OK <- AckOk() (R140, R141). -/
def State.recordAck (s : State) : Except Fault State :=
  match s.ackIsOk with
  | .error f => .error f
  | .ok v => .ok { s with status := { s.status with ackValid := true, ackOk := v } }

/-- `EndDecode()` (R178): DECPOS is PAYLEN on a clean end, else MALFORMED <- 1 and DECPOS is
CMDSTART. -/
def State.endDecode (s : State) : State :=
  if s.rd.pstate = .text then { s with regs := { s.regs with decpos := s.regs.paylen } }
  else
    { s with
      status := { s.status with malformed := true }
      regs := { s.regs with decpos := s.rd.cmdstart } }

end Sys2Proof.Machine
end

