-- ==== Sys2Proof/Machine/Operands.lean ====
section
/-! DEFINITION. Every operand form of an operation: the stop bytes and token buffers, the transmit
frame, the decimal length, and the limits that make a command bad (spec/30_encoding.md R87, R90). -/

namespace Sys2Proof.Machine

/-- Carriage return, the stop byte of the ack token and of the second string, and the byte that ends a
command frame (R91, R94). -/
def carriageReturn : Byte := 0x0D

/-- Comma, the stop byte of the decimal length (R95, R130). -/
def comma : Byte := 0x2C

/-- The token buffer BUFSEL names (R116): true is ACKBUF, false STRBUF. -/
def tokenSpace (ack : Bool) : Space := if ack then .ackbuf else .strbuf

/-- The length register of a token buffer (R116, R29, R30). -/
def State.tokenLen (s : State) (ack : Bool) : Word := if ack then s.regs.acklen else s.regs.strlen

/-- Write the length register of a token buffer. -/
def State.setTokenLen (s : State) (ack : Bool) (n : Word) : State :=
  if ack then { s with regs := { s.regs with acklen := n } }
  else { s with regs := { s.regs with strlen := n } }

/-- R87 (c): SEND and TRANSACT are bad while TXLEN > TX_CAP. -/
def State.txTooLong (s : State) : Bool := decide (s.cfg.txCap < s.regs.txlen.toNat)

/-- R87 (d): DECODE is bad while PAYLEN > PAYLOAD_CAP. -/
def State.payTooLong (s : State) : Bool := decide (s.cfg.payloadCap < s.regs.paylen.toNat)

/-- The command frame (R91, R137): TXBUF[0..TXLEN-1], then carriage return. -/
def State.txFrame (s : State) : Except Fault (List Byte) :=
  match s.blockReadMany .txbuf s.regs.txlen.toNat 0 with
  | .error f => .error f
  | .ok bs => .ok (bs ++ [carriageReturn])

/-- The loop of `ParseDecimal` (R131) over `count` bytes of STRBUF from index `i` on, with the value
`v` so far; `none` is LENGTH_FORMAT. -/
def State.parseDigits (s : State) : (count i v : Nat) → Except Fault (Option Nat)
  | 0, _, v => .ok (some v)
  | n + 1, i, v =>
    match s.blockRead .strbuf i with
    | .error f => .error f
    | .ok c =>
      if c.toNat < 0x30 ∨ 0x39 < c.toNat then .ok none
      else if 2 ^ 32 - 1 < 10 * v + (c.toNat - 0x30) then .ok none
      else s.parseDigits n (i + 1) (10 * v + (c.toNat - 0x30))

/-- `ParseDecimal()` (R131): the decimal number in STRBUF[0..STRLEN-1], most significant digit first,
or `none` for LENGTH_FORMAT. -/
def State.parseDecimal (s : State) : Except Fault (Option Nat) :=
  if s.regs.strlen = 0 then .ok none else s.parseDigits s.regs.strlen.toNat 0 0

end Sys2Proof.Machine
end

