-- ==== Sys2Proof/Machine/FrameReader.lean ====
section
/-! DEFINITION. The frame reader (spec/40_frame_reader.md): the procedures ReadByte, ReadToken,
ReadBlock and SendCommand, one step each, and the meanings of NOP, READ_UNTIL, READ_BLOCK, READ_FRAME,
SEND, TRANSACT.S and TRANSACT.G.

A meaning is one step of its instruction (notes/assumptions/9.md): with the block idle the acceptance
step, with the block running this operation its next step, and with the block running another one the
ignored CMD write of R22. -/

namespace Sys2Proof.Machine

/-! ## ReadByte (R117) -/

/-- What one `ChRead()` inside `ReadByte` leads to. -/
inductive ByteRead where
  /-- No answer yet. -/
  | wait
  /-- READ_FAIL or READ_TIMEOUT. -/
  | ended (s : State)
  /-- An `Empty` below the limit: the read goes on. -/
  | again (s : State)
  /-- A byte. -/
  | byte (b : Byte) (s : State)

/-- One step of `ReadByte` (R117, R121, R122): at most one `ChRead()`. -/
def readByte (s : State) : ByteRead :=
  match s.env.reads with
  | [] => .wait
  | .byte b :: rs => .byte b ((s.setReads rs).setEmptycnt 0)
  | .fail :: rs => .ended ((s.setReads rs).raiseErr .readFail)
  | .empty :: rs =>
    let t := (s.setReads rs).setEmptycnt (s.fr.emptycnt + 1)
    if (s.fr.emptycnt + 1).toNat = s.cfg.emptyLimit then .ended (t.raiseErr .readTimeout)
    else .again t

/-! ## ReadToken (R118, R119) -/

/-- The first line of `ReadToken`, with the first line of its first `ReadByte`: LEN <- 0, OVF <- 0,
EMPTYCNT <- 0. -/
def State.startToken (s : State) (ack : Bool) : State :=
  let t := s.setTokenLen ack 0
  { t with fr := { t.fr with ovf := false, emptycnt := 0 } }

/-- OVF <- 1 (R119). -/
def State.setOvf (s : State) : State := { s with fr := { s.fr with ovf := true } }

/-- A token byte other than the stop byte (R118, R119): stored while LEN < TOKEN_CAP, else dropped with
OVF <- 1. -/
def State.storeToken (s : State) (ack : Bool) (b : Byte) : Except Fault State :=
  if (s.tokenLen ack).toNat < s.cfg.tokenCap then
    match s.blockWrite (tokenSpace ack) (s.tokenLen ack).toNat b with
    | .error f => .error f
    | .ok t => .ok (t.setTokenLen ack (s.tokenLen ack + 1))
  else .ok s.setOvf

/-- One step of `ReadToken(stop, BUF, LEN)` (R118), one `ChRead()`; its first lines run with its first
`ChRead()` (notes/assumptions/10.md). -/
def tokenStep (t : TokenPhase) (stop : Byte) (ack : Bool) (s : State) :
    Except Fault (Progress TokenPhase) :=
  match readByte (match t with | .start => s.startToken ack | .loop => s) with
  | .wait => .ok .wait
  | .ended u => .ok (.ended u)
  | .again u => .ok (.more .loop u)
  | .byte b u =>
    if b = stop then .ok (if u.fr.ovf then .ended (u.raiseErr .tokenOverflow) else .done u)
    else
      match u.storeToken ack b with
      | .error f => .error f
      | .ok v => .ok (.more .loop v)

/-! ## ReadBlock (R124, R125) -/

/-- The first lines of `ReadBlock(N)` with N = BLKLEN: PAYLEN, SUMACC, IDX <- 0, REMAIN <- N, PAY_TRUNC
<- 1 if N > PAYLOAD_CAP, and EMPTYCNT <- 0 for its first `ReadByte`. -/
def State.startBlock (s : State) : State :=
  { s with
    regs := { s.regs with paylen := 0 }
    fr := { s.fr with emptycnt := 0, remain := s.regs.blklen, idx := 0, sumacc := 0 }
    status := { s.status with
      payTrunc := s.status.payTrunc || decide (s.cfg.payloadCap < s.regs.blklen.toNat) } }

/-- A data byte of a block is summed and counted (R124): SUMACC, IDX and REMAIN. -/
def State.countByte (s : State) (b : Byte) : State :=
  { s with fr := { s.fr with
      sumacc := s.fr.sumacc + b, idx := s.fr.idx + 1, remain := s.fr.remain - 1 } }

/-- Write PAYLEN. -/
def State.setPaylen (s : State) (n : Word) : State := { s with regs := { s.regs with paylen := n } }

/-- A data byte of a block (R124, R125): summed and counted, and stored while IDX < PAYLOAD_CAP. -/
def State.storeBlock (s : State) (b : Byte) : Except Fault State :=
  if s.fr.idx.toNat < s.cfg.payloadCap then
    match (s.countByte b).blockWrite .payload s.fr.idx.toNat b with
    | .error f => .error f
    | .ok u => .ok (u.setPaylen (s.fr.idx + 1))
  else .ok (s.countByte b)

/-- One step of `ReadBlock(N)` (R124), one `ChRead()`: a data byte while REMAIN > 0, then the checksum
byte; its first lines run with its first `ChRead()` (notes/assumptions/10.md). -/
def blockStep (p : BlockPhase) (s : State) : Except Fault (Progress BlockPhase) :=
  match readByte (match p with | .start => s.startBlock | .loop => s) with
  | .wait => .ok .wait
  | .ended u => .ok (.ended u)
  | .again u => .ok (.more .loop u)
  | .byte b u =>
    if u.fr.remain = 0 then .ok (.done (u.recordChecksum b))
    else
      match u.storeBlock b with
      | .error f => .error f
      | .ok v => .ok (.more .loop v)

/-! ## SendCommand (R137) -/

/-- `ChWrite(frame)` has answered: the frame is on record, the answer used up. -/
def State.recordWrite (s : State) (frame : List Byte) (ws : List WriteAnswer) : State :=
  { s with env := { s.env with writes := ws, sent := frame :: s.env.sent } }

/-- The one step of `SendCommand()` (R137): the whole frame in one `ChWrite`; anything but `Ok` of the
whole length is WRITE_FAIL. -/
def sendCommand (s : State) : Except Fault (Progress Unit) :=
  match s.txFrame with
  | .error f => .error f
  | .ok frame =>
    match s.env.writes with
    | [] => .ok .wait
    | .ok k :: ws =>
      if k = frame.length then .ok (.done (s.recordWrite frame ws))
      else .ok (.ended ((s.recordWrite frame ws).raiseErr .writeFail))
    | .fail :: ws => .ok (.ended ((s.recordWrite frame ws).raiseErr .writeFail))

/-! ## The frame and the transactions -/

/-- Write BLKLEN. -/
def State.setBlklen (s : State) (n : Word) : State := { s with regs := { s.regs with blklen := n } }

/-- One step of READ_FRAME's body (R130): the length token with stop ',', `ParseDecimal` in a step of its
own (R131), BLKLEN <- N, and `ReadBlock(N)`. -/
def frameStep (p : FramePhase) (s : State) : Except Fault (Progress FramePhase) :=
  match p with
  | .token t =>
    Progress.within FramePhase.token (fun u => .ok (.more .parse u)) (tokenStep t comma false s)
  | .parse =>
    match s.parseDecimal with
    | .error f => .error f
    | .ok none => .ok (.ended (s.raiseErr .lengthFormat))
    | .ok (some n) =>
      .ok (.more (.block .start) (s.setBlklen (BitVec.ofNat 32 n)))
  | .block b => Progress.within FramePhase.block (fun u => .ok (.done u)) (blockStep b s)

/-- One step of the ack token of a transaction (R140, R141): on its end ACK_VALID and ACK_OK are
recorded, a success goes on in phase `onSuccess`, and a non-success ends the body (R143). -/
def ackStep {π : Type} (t : TokenPhase) (into : TokenPhase → π) (onSuccess : π) (s : State) :
    Except Fault (Progress π) :=
  Progress.within into
    (fun u =>
      match u.recordAck with
      | .error f => .error f
      | .ok v => .ok (if v.status.ackOk then .more onSuccess v else .done v))
    (tokenStep t carriageReturn true s)

/-- One step of TRANSACT.S's body (R140). -/
def simpleStep (p : SimplePhase) (s : State) : Except Fault (Progress SimplePhase) :=
  match p with
  | .send =>
    Progress.within (fun _ => SimplePhase.send) (fun u => .ok (.more (.ack .start) u)) (sendCommand s)
  | .ack t => ackStep t SimplePhase.ack (SimplePhase.second .start) s
  | .second t =>
    Progress.within SimplePhase.second (fun u => .ok (.done u)) (tokenStep t carriageReturn false s)

/-- One step of TRANSACT.G's body (R141). -/
def graphicsStep (p : GraphicsPhase) (s : State) : Except Fault (Progress GraphicsPhase) :=
  match p with
  | .send =>
    Progress.within (fun _ => GraphicsPhase.send) (fun u => .ok (.more (.ack .start) u))
      (sendCommand s)
  | .ack t => ackStep t GraphicsPhase.ack (GraphicsPhase.frame (.token .start)) s
  | .frame f => Progress.within GraphicsPhase.frame (fun u => .ok (.done u)) (frameStep f s)

/-! ## The meanings -/

/-- NOP (R115): `finish()` in the step after acceptance. -/
def execNop (stop : Byte) (bufsel kind : Bool) (s : State) : Host.Outcome State Fault Refusal :=
  match s.phase with
  | .idle => .next (s.accept ⟨stop, bufsel, kind⟩ .nop)
  | .nop => .next s.finish
  | _ => .next s.ignoreAccess

/-- READ_UNTIL (R116): one token with the latched stop byte into the buffer the latched BUFSEL names. -/
def execReadUntil (stop : Byte) (bufsel kind : Bool) (s : State) :
    Host.Outcome State Fault Refusal :=
  match s.phase with
  | .idle => .next (s.accept ⟨stop, bufsel, kind⟩ (.readUntil .start))
  | .readUntil t => conclude s Phase.readUntil (tokenStep t s.latch.stop s.latch.bufsel s)
  | _ => .next s.ignoreAccess

/-- READ_BLOCK (R123): a checksummed block of BLKLEN bytes into PAYLOAD. -/
def execReadBlock (stop : Byte) (bufsel kind : Bool) (s : State) :
    Host.Outcome State Fault Refusal :=
  match s.phase with
  | .idle => .next (s.clearBlockResults.accept ⟨stop, bufsel, kind⟩ (.readBlock .start))
  | .readBlock p => conclude s Phase.readBlock (blockStep p s)
  | _ => .next s.ignoreAccess

/-- READ_FRAME (R130): a comma-terminated decimal length, then a block of that length. -/
def execReadFrame (stop : Byte) (bufsel kind : Bool) (s : State) :
    Host.Outcome State Fault Refusal :=
  match s.phase with
  | .idle => .next (s.clearBlockResults.accept ⟨stop, bufsel, kind⟩ (.readFrame (.token .start)))
  | .readFrame p => conclude s Phase.readFrame (frameStep p s)
  | _ => .next s.ignoreAccess

/-- SEND (R136): TXBUF[0..TXLEN-1] and carriage return in one write; bad while TXLEN > TX_CAP (R87). -/
def execSend (stop : Byte) (bufsel kind : Bool) (s : State) : Host.Outcome State Fault Refusal :=
  match s.phase with
  | .idle => .next (if s.txTooLong then s.reject else s.accept ⟨stop, bufsel, kind⟩ .send)
  | .send => conclude s (fun _ => Phase.send) (sendCommand s)
  | _ => .next s.ignoreAccess

/-- TRANSACT.S (R140): the simple transaction; bad while TXLEN > TX_CAP (R87). -/
def execTransactS (stop : Byte) (bufsel : Bool) (s : State) : Host.Outcome State Fault Refusal :=
  match s.phase with
  | .idle =>
    .next (if s.txTooLong then s.reject
      else s.clearTransactResults.accept ⟨stop, bufsel, false⟩ (.transactS .send))
  | .transactS p => conclude s Phase.transactS (simpleStep p s)
  | _ => .next s.ignoreAccess

/-- TRANSACT.G (R141): the graphics transaction; bad while TXLEN > TX_CAP (R87). -/
def execTransactG (stop : Byte) (bufsel : Bool) (s : State) : Host.Outcome State Fault Refusal :=
  match s.phase with
  | .idle =>
    .next (if s.txTooLong then s.reject
      else s.clearTransactResults.accept ⟨stop, bufsel, true⟩ (.transactG .send))
  | .transactG p => conclude s Phase.transactG (graphicsStep p s)
  | _ => .next s.ignoreAccess

end Sys2Proof.Machine
end

