-- ==== Sys2Proof/Syntax.lean ====
section
/-! DEFINITION. The instructions of the block: the host command words written to CMD and the commands
of the escape stream, one constructor per row of spec/opcode_table.json. -/

namespace Sys2Proof

/-- One instruction. The host command words (format HC, spec/30_encoding.md R85, R86) carry the fields
STOP, BUFSEL and KIND even where the operation ignores them, because acceptance latches them for
every operation (R88); the bad words carry all their other bits. -/
inductive Instr where
  /-- NOP, OP = 0x0 (R115). -/
  | nop (stop : Byte) (bufsel kind : Bool)
  /-- READ_UNTIL, OP = 0x1 (R116): `bufsel` false is STRBUF, true is ACKBUF. -/
  | readUntil (stop : Byte) (bufsel kind : Bool)
  /-- READ_BLOCK, OP = 0x2 (R123). -/
  | readBlock (stop : Byte) (bufsel kind : Bool)
  /-- READ_FRAME, OP = 0x3 (R130). -/
  | readFrame (stop : Byte) (bufsel kind : Bool)
  /-- SEND, OP = 0x4 (R136). -/
  | send (stop : Byte) (bufsel kind : Bool)
  /-- TRANSACT.S, OP = 0x5 with KIND = 0 (R140). -/
  | transactS (stop : Byte) (bufsel : Bool)
  /-- TRANSACT.G, OP = 0x5 with KIND = 1 (R141). -/
  | transactG (stop : Byte) (bufsel : Bool)
  /-- DECODE, OP = 0x6 (R160). -/
  | decode (stop : Byte) (bufsel kind : Bool)
  /-- A word with the reserved OP 0x7 (R87 (b)); `rest` is bits [31:4]. -/
  | badOp7 (rest : BitVec 28)
  /-- A word with a reserved OP 0x8 to 0xF (R87 (b)); `low` is bits [2:0], `rest` bits [31:4]. -/
  | badOp8F (low : BitVec 3) (rest : BitVec 28)
  /-- A word with an OP below 0x7 and a nonzero reserved field (R87 (a)): `op` is bits [3:0], `lo`
  bits [7:4], `mid` bits [17:8], `hi` bits [31:18]. -/
  | badReserved (op lo : BitVec 4) (mid : BitVec 10) (hi : BitVec 14)
  /-- ESC.RESET, 0x1B 0x40 (R167). -/
  | escReset
  /-- ESC.BITIMG mode, nx, data, 0x1B 0x2A m nL nH d_0 .. d_(nx-1) (R168). -/
  | escBitimg (mode : Byte) (nx : BitVec 16) (data : List Byte)
  /-- ESC.LSP n, 0x1B 0x41 n (R173). -/
  | escLsp (n : Byte)
  /-- ESC.FAM n, 0x1B FONT_FAMILY_SEL n (R174). -/
  | escFam (n : Byte)
  /-- ESC.PITCH, 0x1B PITCH_SEL (R175). -/
  | escPitch
  /-- ESC.UNREC s, 0x1B s with s of class UNREC (R176). -/
  | escUnrec (s : Byte)
  /-- TXT b, a text byte other than 0x1B (R163). -/
  | txt (b : Byte)
  deriving DecidableEq, Repr

end Sys2Proof
end

