-- ==== Sys2Proof/Decode.lean ====
section
/-! DEFINITION. Decoding and encoding: the host command word (spec/30_encoding.md R86, R87, R90) and
the escape stream (R96 to R102), the encoder of each, and the assembler's pseudo-instructions. -/

namespace Sys2Proof

/-! ## Selectors and operands of the escape stream -/

/-- The byte 0x1B, the escape (R96). -/
def escByte : Byte := 0x1B

/-- The class of a selector byte (R98). -/
inductive SelectorClass where
  | reset | bitImage | lineSpace | fontFamily | pitch | unrec
  deriving DecidableEq, Repr

/-- `class(s)` of R98, in the order of its cases; disjoint in a legal configuration (R9). -/
def selectorClass (c : Config) (s : Byte) : SelectorClass :=
  if s = 0x40 then .reset
  else if s = 0x2A then .bitImage
  else if s = 0x41 then .lineSpace
  else if s = c.fontSel then .fontFamily
  else if s = c.pitchSel then .pitch
  else .unrec

/-- `nx = nL + 256 * nH`, zero-extended (R65, R99). -/
def columnCount (nl nh : Byte) : BitVec 16 := nl.setWidth 16 + 256 * nh.setWidth 16

/-! ## The host command word -/

/-- The instruction a word written to CMD is: total, since every word has a meaning. The conditions of
R87 (a) and (b) select the bad words; (c) and (d), which read registers, are the operations' own. -/
def decodeWord (w : Word) : Instr :=
  let op : BitVec 4 := w.extractLsb' 0 4
  let lo : BitVec 4 := w.extractLsb' 4 4
  let stop : Byte := w.extractLsb' 8 8
  let bufsel := w.getLsbD 16
  let kind := w.getLsbD 17
  let hi : BitVec 14 := w.extractLsb' 18 14
  if w.getLsbD 3 then .badOp8F (w.extractLsb' 0 3) (w.extractLsb' 4 28)
  else if op = 7 then .badOp7 (w.extractLsb' 4 28)
  else if lo ≠ 0 ∨ hi ≠ 0 then .badReserved op lo (w.extractLsb' 8 10) hi
  else match op.toNat with
    | 0 => .nop stop bufsel kind
    | 1 => .readUntil stop bufsel kind
    | 2 => .readBlock stop bufsel kind
    | 3 => .readFrame stop bufsel kind
    | 4 => .send stop bufsel kind
    | 5 => if kind then .transactG stop bufsel else .transactS stop bufsel
    | _ => .decode stop bufsel kind

/-! ## The escape stream -/

/-- Why a byte stream holds no instruction at its front. Neither is illegal (R101): the first is the
end of the stream, the second the `partial` of R96, whose bytes DECODE consumes one by one. -/
inductive DecodeError where
  /-- No byte is left. -/
  | endOfStream
  /-- The bytes left are a proper prefix of a command (R96 `partial`). -/
  | partialCommand
  deriving DecidableEq, Repr

/-- The item at the front of an escape stream and the bytes after it (R96, R100, R102). -/
def decodeStream (c : Config) : List Byte → Except DecodeError (Instr × List Byte)
  | [] => .error .endOfStream
  | [b] => if b = escByte then .error .partialCommand else .ok (.txt b, [])
  | b :: s :: rest =>
    if b = escByte then
      match selectorClass c s with
      | .reset => .ok (.escReset, rest)
      | .bitImage =>
        match rest with
        | m :: nl :: nh :: ds =>
          if (columnCount nl nh).toNat ≤ ds.length then
            .ok (.escBitimg m (columnCount nl nh) (ds.take (columnCount nl nh).toNat),
              ds.drop (columnCount nl nh).toNat)
          else .error .partialCommand
        | _ => .error .partialCommand
      | .lineSpace =>
        match rest with
        | n :: rest' => .ok (.escLsp n, rest')
        | [] => .error .partialCommand
      | .fontFamily =>
        match rest with
        | n :: rest' => .ok (.escFam n, rest')
        | [] => .error .partialCommand
      | .pitch => .ok (.escPitch, rest)
      | .unrec => .ok (.escUnrec s, rest)
    else .ok (.txt b, s :: rest)

/-! ## The encoder -/

/-- What an instruction is written as: a word for CMD, or bytes of the escape stream. -/
inductive Code where
  | word (w : Word)
  | bytes (bs : List Byte)
  deriving DecidableEq, Repr

/-- A word of format HC from its fields (R85): reserved [31:18], KIND, BUFSEL, STOP, reserved [7:4],
OP. -/
def commandWord (hi : BitVec 14) (kind bufsel : Bool) (stop : Byte) (lo op : BitVec 4) : Word :=
  hi ++ BitVec.ofBool kind ++ BitVec.ofBool bufsel ++ stop ++ lo ++ op

/-- The code of an instruction (R85, R86, R96, R103). -/
def encode (c : Config) : Instr → Code
  | .nop stop bufsel kind => .word (commandWord 0 kind bufsel stop 0 0)
  | .readUntil stop bufsel kind => .word (commandWord 0 kind bufsel stop 0 1)
  | .readBlock stop bufsel kind => .word (commandWord 0 kind bufsel stop 0 2)
  | .readFrame stop bufsel kind => .word (commandWord 0 kind bufsel stop 0 3)
  | .send stop bufsel kind => .word (commandWord 0 kind bufsel stop 0 4)
  | .transactS stop bufsel => .word (commandWord 0 false bufsel stop 0 5)
  | .transactG stop bufsel => .word (commandWord 0 true bufsel stop 0 5)
  | .decode stop bufsel kind => .word (commandWord 0 kind bufsel stop 0 6)
  | .badOp7 rest => .word (rest ++ (7 : BitVec 4))
  | .badOp8F low rest => .word (rest ++ (1 : BitVec 1) ++ low)
  | .badReserved op lo mid hi => .word (hi ++ mid ++ lo ++ op)
  | .escReset => .bytes [escByte, 0x40]
  | .escBitimg m nx data =>
    .bytes (escByte :: 0x2A :: m :: nx.extractLsb' 0 8 :: nx.extractLsb' 8 8 :: data)
  | .escLsp n => .bytes [escByte, 0x41, n]
  | .escFam n => .bytes [escByte, c.fontSel, n]
  | .escPitch => .bytes [escByte, c.pitchSel]
  | .escUnrec s => .bytes [escByte, s]
  | .txt b => .bytes [b]

/-- The bytes of a stream instruction; a command word has none. -/
def Code.stream : Code → List Byte
  | .word _ => []
  | .bytes bs => bs

/-- The instruction a code stands for: a word is always one, bytes are one when they are exactly one
item of the stream. -/
def decodeCode (c : Config) : Code → Option Instr
  | .word w => some (decodeWord w)
  | .bytes bs =>
    match decodeStream c bs with
    | .ok (i, []) => some i
    | _ => none

/-- The length of an instruction in bytes (R85, R100): 4 for a command word. -/
def Instr.length : Instr → Nat
  | .nop .. | .readUntil .. | .readBlock .. | .readFrame .. | .send .. => 4
  | .transactS .. | .transactG .. | .decode .. | .badOp7 .. | .badOp8F .. | .badReserved .. => 4
  | .escReset => 2
  | .escBitimg _ nx _ => 5 + nx.toNat
  | .escLsp _ => 3
  | .escFam _ => 3
  | .escPitch => 2
  | .escUnrec _ => 2
  | .txt _ => 1

/-- How many bytes a code takes. -/
def Code.length : Code → Nat
  | .word _ => 4
  | .bytes bs => bs.length

/-! ## Assembler pseudo-instructions (R103) -/

/-- `STRIP d0, ..., dk` is `ESC.BITIMG 0, k+1, d0, ..., dk`. -/
def strip (data : List Byte) : Instr := .escBitimg 0 (BitVec.ofNat 16 data.length) data

/-- `CRLF` is `TXT 0x0D, 0x0A`. -/
def crlf : List Instr := [.txt 0x0D, .txt 0x0A]

/-- The bytes of an escape-stream listing, in order. -/
def assemble (c : Config) : List Instr → List Byte
  | [] => []
  | i :: is => (encode c i).stream ++ assemble c is

/-! ## The opcode table's numbering -/

/-- The stream bytes of a table row's number: a 16-bit row is `(b0 << 8) | b1`, an 8-bit row is `b0`
(the rows' `unit` in spec/opcode_table.json), followed by operand bytes of zero up to the longest
command such a row starts, a bit-image command with nx = 0 (notes/assumptions/14.md). -/
def tableBytes (nbits w : Nat) : List Byte :=
  if nbits = 16 then [BitVec.ofNat 8 (w / 256), BitVec.ofNat 8 w, 0, 0, 0]
  else [BitVec.ofNat 8 w, 0, 0, 0, 0]

/-- The instruction the decoder reads from a table row's number: a 32-bit row is a command word, a
16-bit or 8-bit row the front of an escape stream, in the reference configuration. -/
def decodeTableWord (nbits w : Nat) : Option Instr :=
  if nbits = 32 then some (decodeWord (BitVec.ofNat 32 w))
  else if nbits = 16 ∨ nbits = 8 then
    match decodeStream Config.reference (tableBytes nbits w) with
    | .ok (i, _) => some i
    | .error _ => none
  else none

end Sys2Proof
end

