-- ==== Sys2Proof/Machine/RasterDecoder.lean ====
section
/-! DEFINITION. The raster decoder (spec/41_raster_decoder.md): the pixel primitives, the byte-wise state
machine of R162, the operation DECODE, and the meaning of each command of the escape stream as a whole.

DECODE's meaning steps one byte at a time. A stream instruction's meaning is the whole command in one
step, as R164 allows and R168 states it (notes/assumptions/8.md); `step` runs it when a whole command
stands at POS. -/

namespace Sys2Proof.Machine

/-! ## Pixels -/

/-- A byte with its bit `k` made `v`. -/
def setBit (b : Byte) (k : Nat) (v : Bool) : Byte :=
  if v then b ||| (1#8 <<< k) else b &&& ~~~(1#8 <<< k)

/-- The BITMAP byte that holds pixel (x, y) (R64). -/
def pixelByte (c : Config) (x y : Nat) : Nat := y * (c.w / 8) + x / 8

/-- `PixWrite(x, y, v)` (R166): a pixel outside W x H is dropped. -/
def pixWrite (c : Config) (x y : Nat) (v : Bool) (m : Memory) : Except Fault Memory :=
  if x < c.w ∧ y < c.h then
    if pixelByte c x y < Space.bitmap.size c then
      .ok (Memory.write m (pixelByte c x y)
        (setBit (Memory.read m (pixelByte c x y)) (7 - x % 8) v))
    else .error (.blockAccess .bitmap (pixelByte c x y))
  else .ok m

/-- The pixel (x, y) of a bitmap (R64): bit 7 - (x mod 8) of its byte. -/
def pixel (c : Config) (m : Memory) (x y : Nat) : Bool :=
  (Memory.read m (pixelByte c x y)).getLsbD (7 - x % 8)

/-- The loop of `PaintColumn` (R165) over the rows of a list: row `y + i` from bit `d[7 - i]`. -/
def paintRows (c : Config) (x y : Nat) (d : Byte) : List Nat → Memory → Except Fault Memory
  | [], m => .ok m
  | i :: is, m =>
    match pixWrite c x (y + i) (d.getLsbD (7 - i)) m with
    | .error f => .error f
    | .ok m' => paintRows c x y d is m'

/-- `PaintColumn(x, y, d)` (R165, R170). -/
def paintColumn (c : Config) (x y : Nat) (d : Byte) (m : Memory) : Except Fault Memory :=
  paintRows c x y d [0, 1, 2, 3, 4, 5, 6, 7] m

/-- The columns of a bit-image command (R168): data byte j at column `x + j`, from `x = 0`
(R169). -/
def paintColumns (c : Config) (y : Nat) : (x : Nat) → List Byte → Memory → Except Fault Memory
  | _, [], m => .ok m
  | x, d :: ds, m =>
    match paintColumn c x y d m with
    | .error f => .error f
    | .ok m' => paintColumns c y (x + 1) ds m'

/-! ## The byte-wise state machine (R162) -/

/-- Replace PSTATE. -/
def State.setPstate (s : State) (p : PState) : State := { s with rd := { s.rd with pstate := p } }

/-- The vertical advance (R171): YCUR <- YCUR + 8. -/
def State.advanceRow (s : State) : State :=
  { s with regs := { s.regs with ycur := s.regs.ycur + 8 } }

/-- Replace NX and XC. -/
def State.setColumns (s : State) (nx xc : BitVec 16) : State :=
  { s with rd := { s.rd with nx := nx, xc := xc } }

/-- Replace NL. -/
def State.setNl (s : State) (nl : Byte) : State := { s with rd := { s.rd with nl := nl } }

/-- Move POS past one byte (R23). -/
def State.advancePos (s : State) : State := { s with rd := { s.rd with pos := s.rd.pos + 1 } }

/-- The byte before POS is the escape of a new command: CMDSTART <- POS - 1 (R162). -/
def State.markStart (s : State) : State :=
  { s with rd := { s.rd with cmdstart := s.rd.pos - 1 } }

/-- One more unrecognised selector (R176). -/
def State.countUnrec (s : State) : State :=
  { s with regs := { s.regs with unrec := s.regs.unrec + 1 } }

/-- `DecodeStep(b)` (R162), after POS has moved past the byte `b`. -/
def decodeStep (b : Byte) (s : State) : Except Fault State :=
  match s.rd.pstate with
  | .text =>
    if b = escByte then .ok (s.markStart.setPstate .esc) else .ok s
  | .esc =>
    match selectorClass s.cfg b with
    | .reset => .ok (s.setPstate .text)
    | .bitImage => .ok (s.setPstate .biMode)
    | .lineSpace => .ok (s.setPstate .operand)
    | .fontFamily => .ok (s.setPstate .operand)
    | .pitch => .ok (s.setPstate .text)
    | .unrec => .ok (s.countUnrec.setPstate .text)
  | .biMode => .ok (s.setPstate .biNl)
  | .biNl => .ok ((s.setNl b).setPstate .biNh)
  | .biNh =>
    if columnCount s.rd.nl b = 0 then .ok ((s.setColumns 0 0).advanceRow.setPstate .text)
    else .ok ((s.setColumns (columnCount s.rd.nl b) 0).setPstate .biData)
  | .biData =>
    match paintColumn s.cfg s.rd.xc.toNat s.regs.ycur.toNat b s.bufs.bitmap with
    | .error f => .error f
    | .ok m =>
      if s.rd.xc + 1 = s.rd.nx then
        .ok (((s.setBuf .bitmap m).setColumns s.rd.nx (s.rd.xc + 1)).advanceRow.setPstate .text)
      else .ok ((s.setBuf .bitmap m).setColumns s.rd.nx (s.rd.xc + 1))
  | .operand => .ok (s.setPstate .text)

/-! ## DECODE (R160) -/

/-- `ClearBitmap()` (R161) and the decoder's initial values (R160). -/
def State.startDecode (s : State) : State :=
  { s with
    bufs := { s.bufs with bitmap := [] }
    rd := { pos := 0, pstate := .text, nl := 0, nx := 0, xc := 0, cmdstart := 0 } }

/-- One round of DECODE's loop (R160): fetch the byte at POS, move POS past it, run `DecodeStep`. -/
def decodeByte (s : State) : Except Fault State :=
  match s.blockRead .payload s.rd.pos.toNat with
  | .error f => .error f
  | .ok b => decodeStep b s.advancePos

/-- DECODE (R160): clear, one byte per step while POS < PAYLEN, then `EndDecode` and `finish()`; bad
while PAYLEN > PAYLOAD_CAP (R87). -/
def execDecode (stop : Byte) (bufsel kind : Bool) (s : State) :
    Host.Outcome State Fault Refusal :=
  match s.phase with
  | .idle =>
    .next (if s.payTooLong then s.reject
      else s.clearDecodeResults.accept ⟨stop, bufsel, kind⟩ (.decode .clear))
  | .decode .clear => .next (s.startDecode.enter (.decode .loop))
  | .decode .loop =>
    if s.rd.pos.toNat < s.regs.paylen.toNat then unlessFault (decodeByte s)
    else .next s.endDecode.finish
  | _ => .next s.ignoreAccess

/-! ## The commands of the escape stream -/

/-- A whole command of `n` bytes, from its escape byte at POS, has been consumed: CMDSTART is the index
of its escape, POS moves past it, PSTATE is TEXT again (R162; notes/assumptions/15.md). -/
def State.consume (s : State) (n : Nat) : State :=
  { s with rd := { s.rd with
      pos := s.rd.pos + BitVec.ofNat 32 n, cmdstart := s.rd.pos, pstate := .text } }

/-- ESC.RESET (R167): consumed, no effect. -/
def execEscReset (s : State) : Host.Outcome State Fault Refusal := .next (s.consume 2)

/-- ESC.BITIMG m, nx, d... (R168): one column per data byte from column 0 at the vertical cursor, then
the cursor advances by 8 rows, whatever nx is (R171); the mode has no effect (R172). -/
def execEscBitimg (_mode : Byte) (nx : BitVec 16) (data : List Byte) (s : State) :
    Host.Outcome State Fault Refusal :=
  match paintColumns s.cfg s.regs.ycur.toNat 0 data s.bufs.bitmap with
  | .error f => .fault f
  | .ok m =>
    .next ((((s.setBuf .bitmap m).setNl (nx.extractLsb' 0 8)).setColumns nx nx).advanceRow.consume
      (5 + nx.toNat))

/-- ESC.LSP n (R173): the operand is consumed and otherwise ignored. -/
def execEscLsp (_n : Byte) (s : State) : Host.Outcome State Fault Refusal := .next (s.consume 3)

/-- ESC.FAM n (R174): the operand is consumed and otherwise ignored. -/
def execEscFam (_n : Byte) (s : State) : Host.Outcome State Fault Refusal := .next (s.consume 3)

/-- ESC.PITCH (R175): consumed, no effect; UNREC is not incremented. -/
def execEscPitch (s : State) : Host.Outcome State Fault Refusal := .next (s.consume 2)

/-- ESC.UNREC s (R176): consumed, and UNREC <- UNREC + 1. -/
def execEscUnrec (_sel : Byte) (s : State) : Host.Outcome State Fault Refusal :=
  .next (s.countUnrec.consume 2)

/-- TXT b (R163): the byte is dropped. -/
def execTxt (_b : Byte) (s : State) : Host.Outcome State Fault Refusal :=
  .next s.advancePos

end Sys2Proof.Machine
end

