-- ==== Sys2Proof/WellFormed.lean ====
section
/-! DEFINITION. Which instruction terms an encoding can stand for, in a configuration. -/

namespace Sys2Proof

/-- The checks on an instruction's fields: a bad word of the third kind has an OP below 0x7 and a
nonzero reserved field (spec/30_encoding.md R87 (a)); a bit-image command has nx data bytes (R99); an
unrecognised selector is of class UNREC (R98); a text byte is not the escape (R96). Every other term
is well-formed: its fields are as wide as the encoding's. -/
def Instr.wf (c : Config) : Instr → Bool
  | .badReserved op lo _ hi => decide (op.toNat < 7) && (decide (lo ≠ 0) || decide (hi ≠ 0))
  | .escBitimg _ nx data => decide (data.length = nx.toNat)
  | .escUnrec s => decide (selectorClass c s = .unrec)
  | .txt b => decide (b ≠ escByte)
  | .nop .. | .readUntil .. | .readBlock .. | .readFrame .. | .send .. | .transactS .. => true
  | .transactG .. | .decode .. | .badOp7 .. | .badOp8F .. => true
  | .escReset | .escLsp _ | .escFam _ | .escPitch => true

/-- A host command word: an instruction the host writes to CMD (format HC, R85). -/
def Instr.isCommand : Instr → Bool
  | .nop .. | .readUntil .. | .readBlock .. | .readFrame .. | .send .. | .transactS .. => true
  | .transactG .. | .decode .. | .badOp7 .. | .badOp8F .. | .badReserved .. => true
  | .escReset | .escBitimg .. | .escLsp _ | .escFam _ | .escPitch | .escUnrec _ | .txt _ => false

end Sys2Proof
end

