-- ==== Sys2Proof/Machine/Dispatch.lean ====
section
/-! DEFINITION. One arm per instruction: which meaning each constructor of `Instr` has. -/

namespace Sys2Proof.Machine

/-- One step of the instruction `i`. -/
def exec (i : Instr) (s : State) : Host.Outcome State Fault Refusal :=
  match i with
  | .nop stop bufsel kind => Sys2Proof.Machine.execNop stop bufsel kind s
  | .readUntil stop bufsel kind => Sys2Proof.Machine.execReadUntil stop bufsel kind s
  | .readBlock stop bufsel kind => Sys2Proof.Machine.execReadBlock stop bufsel kind s
  | .readFrame stop bufsel kind => Sys2Proof.Machine.execReadFrame stop bufsel kind s
  | .send stop bufsel kind => Sys2Proof.Machine.execSend stop bufsel kind s
  | .transactS stop bufsel => Sys2Proof.Machine.execTransactS stop bufsel s
  | .transactG stop bufsel => Sys2Proof.Machine.execTransactG stop bufsel s
  | .decode stop bufsel kind => Sys2Proof.Machine.execDecode stop bufsel kind s
  | .badOp7 rest => Sys2Proof.Machine.execBadOp7 rest s
  | .badOp8F low rest => Sys2Proof.Machine.execBadOp8F low rest s
  | .badReserved op lo mid hi => Sys2Proof.Machine.execBadReserved op lo mid hi s
  | .escReset => Sys2Proof.Machine.execEscReset s
  | .escBitimg mode nx data => Sys2Proof.Machine.execEscBitimg mode nx data s
  | .escLsp n => Sys2Proof.Machine.execEscLsp n s
  | .escFam n => Sys2Proof.Machine.execEscFam n s
  | .escPitch => Sys2Proof.Machine.execEscPitch s
  | .escUnrec sel => Sys2Proof.Machine.execEscUnrec sel s
  | .txt b => Sys2Proof.Machine.execTxt b s

end Sys2Proof.Machine
end

