-- ==== Sys2Proof/Machine/Fetch.lean ====
section
/-! DEFINITION. What the block's next step runs: the running operation, or, in DECODE's loop with a
whole command at POS, that command (spec/41_raster_decoder.md R160, R164). -/

namespace Sys2Proof.Machine

/-- The bytes of the escape stream from POS on (R76, R96): PAYLOAD[POS .. PAYLEN-1], no byte beyond
PAYLOAD_CAP. -/
def State.streamBytes (s : State) : List Byte :=
  (List.range' s.rd.pos.toNat
      (min s.regs.paylen.toNat s.cfg.payloadCap - s.rd.pos.toNat)).map
    (Memory.read s.bufs.payload)

/-- The whole command at POS, if the decoder is between commands and one is there (R96, R100). -/
def State.nextCommand (s : State) : Option Instr :=
  if s.rd.pstate = .text then
    match decodeStream s.cfg s.streamBytes with
    | .ok (i, _) => some i
    | .error _ => none
  else none

/-- The instruction the block's next step runs; none while it is idle (R230). A running operation is
its own command word again, with the fields R88 latched. -/
def State.nextInstr (s : State) : Option Instr :=
  match s.phase with
  | .idle => none
  | .nop => some (.nop s.latch.stop s.latch.bufsel s.latch.kind)
  | .readUntil _ => some (.readUntil s.latch.stop s.latch.bufsel s.latch.kind)
  | .readBlock _ => some (.readBlock s.latch.stop s.latch.bufsel s.latch.kind)
  | .readFrame _ => some (.readFrame s.latch.stop s.latch.bufsel s.latch.kind)
  | .send => some (.send s.latch.stop s.latch.bufsel s.latch.kind)
  | .transactS _ => some (.transactS s.latch.stop s.latch.bufsel)
  | .transactG _ => some (.transactG s.latch.stop s.latch.bufsel)
  | .decode .clear => some (.decode s.latch.stop s.latch.bufsel s.latch.kind)
  | .decode .loop =>
    match s.nextCommand with
    | some i => some i
    | none => some (.decode s.latch.stop s.latch.bufsel s.latch.kind)

/-- The state in which the host's next access writes the word `w` to an idle block's CMD (R24). -/
def State.withCommandWord (s : State) (w : Word) : State :=
  { s with
    phase := .idle
    env := { s.env with turns := .host (.regWrite 32 0 w) :: s.env.turns } }

/-- The state in which the block is in DECODE's loop, between commands, with the bytes `bs` as the whole
escape stream. -/
def State.withStream (s : State) (bs : List Byte) : State :=
  { s with
    phase := .decode .loop
    regs := { s.regs with paylen := BitVec.ofNat 32 bs.length }
    bufs := { s.bufs with payload := Memory.store s.bufs.payload 0 bs }
    rd := { s.rd with pos := 0, pstate := .text }
    env := { s.env with turns := .block :: s.env.turns } }

end Sys2Proof.Machine
end

