-- ==== Sys2Proof/Machine/HostPort.lean ====
section
/-! DEFINITION. The host's port: register accesses (spec/10_state.md R21, R22, R26, R36 to R41) and buffer
accesses (spec/20_memory.md R61). -/

namespace Sys2Proof.Machine

/-- What a host access comes to: a word written to CMD, a new state, or no access the interface has. -/
inductive HostResult where
  | command (w : Word)
  | done (s : State)
  | refused
  deriving DecidableEq, Repr

/-- The register accesses the interface has: 32 bits, at a multiple of 4 in 0x000 to 0xFFF (R22). -/
def validRegister (width off : Nat) : Bool :=
  decide (width = 32) && decide (off % 4 = 0) && decide (off < 0x1000)

/-- The value of the host register at an offset, while idle (R21, R24, R27 to R41): CMD and the reserved
offsets read 0. -/
def State.register (s : State) (off : Nat) : Word :=
  match off with
  | 0x04 => s.status.word s.busy
  | 0x08 => s.regs.blklen
  | 0x0C => s.regs.txlen
  | 0x10 => s.regs.acklen
  | 0x14 => s.regs.strlen
  | 0x18 => s.regs.paylen
  | 0x1C => (0 : BitVec 16) ++ s.regs.rxchk ++ s.regs.sum
  | 0x20 => s.regs.ycur
  | 0x24 => s.regs.unrec
  | 0x28 => s.regs.decpos
  | 0x2C => BitVec.ofNat 16 s.cfg.h ++ BitVec.ofNat 16 s.cfg.w
  | 0x30 => BitVec.ofNat 16 s.cfg.txCap ++ BitVec.ofNat 16 s.cfg.tokenCap
  | 0x34 => BitVec.ofNat 32 s.cfg.payloadCap
  | 0x38 => BitVec.ofNat 32 s.cfg.emptyLimit
  | 0x3C => (0 : BitVec 16) ++ s.cfg.pitchSel ++ s.cfg.fontSel
  | _ => 0

/-- Return a value to the host. -/
def State.reply (s : State) (r : Reply) : State :=
  { s with env := { s.env with replies := r :: s.env.replies } }

/-- One draw has been made: the next one is another (notes/assumptions/7.md). -/
def State.countDraw (s : State) : State :=
  { s with env := { s.env with draws := s.env.draws + 1 } }

/-- A register read (R22): while idle the register's value; while busy STATUS as R26 gives it, and any
other offset a draw. -/
def State.hostRegRead (s : State) (off : Nat) : State :=
  if s.busy then
    let d := Config.drawWord s.env.draws
    s.countDraw.reply (.word (if off = 0x04 then s.status.busyWord d else d))
  else s.reply (.word (s.register off))

/-- A register write other than one of CMD while idle (R22): the RW registers store all 32 bits while
idle; every other write is ignored and sets HOST_ERR. -/
def State.hostRegWrite (s : State) (off : Nat) (v : Word) : State :=
  if s.busy then s.ignoreAccess
  else
    match off with
    | 0x08 => { s with regs := { s.regs with blklen := v } }
    | 0x0C => { s with regs := { s.regs with txlen := v } }
    | 0x18 => { s with regs := { s.regs with paylen := v } }
    | _ => s.ignoreAccess

/-- The buffers the host may write (R60, R61). -/
def Space.hostWritable : Space → Bool
  | .txbuf | .payload => true
  | .ackbuf | .strbuf | .bitmap => false

/-- `HostMemRead(SPACE, i)` (R61): while busy a draw; while idle the stored byte, or 0x00 with HOST_ERR
outside the buffer. -/
def State.hostMemRead (s : State) (sp : Space) (i : Nat) : State :=
  if s.busy then s.countDraw.reply (.byte (Config.drawByte s.env.draws))
  else if i < sp.size s.cfg then s.reply (.byte (s.byteAt sp i))
  else s.ignoreAccess.reply (.byte 0)

/-- `HostMemWrite(SPACE, i, v)` (R61): stored while idle, inside TXBUF or PAYLOAD; ignored with HOST_ERR
otherwise. -/
def State.hostMemWrite (s : State) (sp : Space) (i : Nat) (v : Byte) : State :=
  if s.busy then s.ignoreAccess
  else if i < sp.size s.cfg ∧ sp.hostWritable then
    s.setBuf sp (Memory.write (s.bufs.get sp) i v)
  else s.ignoreAccess

/-- What one host access does. A write of CMD while idle is an instruction (R24), left to `step`. -/
def hostAccess (a : HostAccess) (s : State) : HostResult :=
  match a with
  | .regRead width off => if validRegister width off then .done (s.hostRegRead off) else .refused
  | .regWrite width off v =>
    if validRegister width off then
      if off = 0 ∧ s.busy = false then .command v else .done (s.hostRegWrite off v)
    else .refused
  | .memRead sp i => .done (s.hostMemRead sp i)
  | .memWrite sp i v => .done (s.hostMemWrite sp i v)

/-- The bus address of a host register where a platform places the register space at FRD_BASE (R71). -/
def busAddress (off : Nat) : Nat := Config.frdBase + off

end Sys2Proof.Machine
end

