-- ==== Sys2Proof/Machine/Step.lean ====
section
/-! DEFINITION. One step of the machine: the agent the schedule names moves (spec/20_memory.md R73). -/

namespace Sys2Proof.Machine

/-- The block's turn: one step of what it runs; an idle block stays as it is (R230). -/
def blockTurn (s : State) : Host.Outcome State Fault Refusal :=
  match s.nextInstr with
  | none => .next s
  | some i => exec i s

/-- The host's turn: one access; a word written to an idle block's CMD is an instruction (R24). -/
def hostTurn (a : HostAccess) (s : State) : Host.Outcome State Fault Refusal :=
  match hostAccess a s with
  | .command w => exec (decodeWord w) s
  | .done t => .next t
  | .refused => .refused .noSuchAccess

/-- One step: the first turn of the schedule, used up; with no turn left, the block's. -/
def step (s : State) : Host.Outcome State Fault Refusal :=
  match s.env.turns with
  | [] => blockTurn s
  | .block :: ts => blockTurn (s.setTurns ts)
  | .host a :: ts => hostTurn a (s.setTurns ts)
  | .reset :: ts => .next (s.setTurns ts).resetBlock

/-- The state whose next step runs the instruction a row of spec/opcode_table.json numbers `w`: a 32-bit
row is a word the host writes to an idle block's CMD; a 16-bit or 8-bit row stands at the front of the
escape stream of a block in DECODE's loop (notes/assumptions/14.md). -/
def State.withFetchWord (s : State) (nbits w : Nat) : State :=
  if nbits = 32 then s.withCommandWord (BitVec.ofNat 32 w)
  else if nbits = 16 ∨ nbits = 8 then s.withStream (tableBytes nbits w)
  else s

end Sys2Proof.Machine
end

