-- ==== Sys2Proof/Machine/Sink.lean ====
section
/-! DEFINITION. What is handed over outside the block (spec/42_bitmap_sink.md): the bitmap sink's output
and the raw payload dump, as functions of the state. No step of the machine runs them. -/

namespace Sys2Proof.Machine

/-- The decimal digits of `n`, most significant first, none leading zero (R201); `fuel` bounds their
number. -/
def decimalDigits : (fuel n : Nat) → List Byte
  | 0, _ => []
  | f + 1, n =>
    if n < 10 then [BitVec.ofNat 8 (0x30 + n)]
    else decimalDigits f (n / 10) ++ [BitVec.ofNat 8 (0x30 + n % 10)]

/-- `decimal(n)` of R201. -/
def decimal (n : Nat) : List Byte := decimalDigits (n + 1) n

/-- The bytes of a buffer from index 0 on. -/
def State.dump (s : State) (sp : Space) (n : Nat) : List Byte := (List.range n).map (s.byteAt sp)

/-- The sink's three-line header (R201): "P4", the comment line, width and height, each ended by LF. -/
def sinkHeader (creator : List Byte) (c : Config) : List Byte :=
  [0x50, 0x34, 0x0A, 0x23, 0x20] ++ creator ++ [0x0A]
    ++ decimal c.w ++ [0x20] ++ decimal c.h ++ [0x0A]

/-- The sink's output (R201, R202): the header, then every BITMAP byte in index order. -/
def sinkOutput (creator : List Byte) (s : State) : List Byte :=
  sinkHeader creator s.cfg ++ s.dump .bitmap (Space.bitmap.size s.cfg)

/-- The sink's output with the OPEN comment text of R201. -/
def State.image (s : State) : List Byte := sinkOutput Config.creatorComment s

/-- The raw payload dump (R203): PAYLOAD[0 .. PAYLEN-1]. -/
def State.payloadDump (s : State) : List Byte := s.dump .payload s.regs.paylen.toNat

end Sys2Proof.Machine
end

