-- ==== Sys2Proof/Safety.lean ====
section
/-! DEFINITION. What a safe run of the machine is, in the words the statements use: the invariant of
every reachable state, the invariant of a running decode, and a run that never faults. -/

namespace Sys2Proof.Machine

/-- The phases whose next channel access is the write of the command frame. -/
def Phase.sends : Phase → Bool
  | .send | .transactS .send | .transactG .send => true
  | _ => false

/-- The phases of DECODE. -/
def Phase.decodes : Phase → Bool
  | .decode _ => true
  | _ => false

/-- The phases of the two transactions, with the KIND each has. -/
def Phase.kind : Phase → Option Bool
  | .transactS _ => some false
  | .transactG _ => some true
  | _ => none

/-- The invariant of the machine: it holds after reset and every step keeps it. -/
structure State.Inv (s : State) : Prop where
  /-- The configuration is legal (R8, R9). -/
  cfgLegal : s.cfg.Legal
  /-- Every buffer is in canonical form. -/
  bufsCanonical : ∀ sp, Memory.wf (s.bufs.get sp) = true
  /-- No byte is stored outside its buffer (R62). -/
  bufsWithin : ∀ sp, Memory.within (sp.size s.cfg) (s.bufs.get sp) = true
  /-- ACKLEN <= TOKEN_CAP (R29). -/
  acklenFits : s.regs.acklen.toNat ≤ s.cfg.tokenCap
  /-- STRLEN <= TOKEN_CAP (R30). -/
  strlenFits : s.regs.strlen.toNat ≤ s.cfg.tokenCap
  /-- When CHK_VALID is 0, CHK_OK is 0 (R25). -/
  chkOkValid : s.status.chkOk = true → s.status.chkValid = true
  /-- When ACK_VALID is 0, ACK_OK is 0 (R25). -/
  ackOkValid : s.status.ackOk = true → s.status.ackValid = true
  /-- While BUSY = 1, DONE = 0 (R26). -/
  busyNotDone : s.busy = true → s.status.done = false
  /-- While BUSY = 1, ERR is what acceptance made it: 0 (R88). -/
  busyNoErr : s.busy = true → s.status.err = .noError
  /-- The frame to send lies in TXBUF (R28). -/
  frameFits : s.phase.sends = true → s.regs.txlen.toNat ≤ s.cfg.txCap
  /-- The stream to decode lies in PAYLOAD (R31). -/
  streamFits : s.phase.decodes = true → s.regs.paylen.toNat ≤ s.cfg.payloadCap
  /-- POS never exceeds PAYLEN (R23). -/
  posFits : s.phase = .decode .loop → s.rd.pos.toNat ≤ s.regs.paylen.toNat
  /-- A running transaction has its latched KIND (R24, R88). -/
  kindLatched : ∀ k, s.phase.kind = some k → s.latch.kind = k
  /-- The vertical cursor is a multiple of 8 (R33). -/
  ycurAligned : s.regs.ycur.toNat % 8 = 0

/-- Where the current command began: POS between commands, CMDSTART inside one (R44). -/
def Raster.itemStart (rd : Raster) : Nat :=
  if rd.pstate = .text then rd.pos.toNat else rd.cmdstart.toNat

/-- How far POS stands past CMDSTART in each state of R162's machine, and in BI_DATA that a column is
still to come. -/
def Raster.Located (rd : Raster) : Prop :=
  match rd.pstate with
  | .text => True
  | .esc => rd.pos.toNat = rd.cmdstart.toNat + 1
  | .biMode => rd.pos.toNat = rd.cmdstart.toNat + 2
  | .biNl => rd.pos.toNat = rd.cmdstart.toNat + 3
  | .biNh => rd.pos.toNat = rd.cmdstart.toNat + 4
  | .biData => rd.pos.toNat = rd.cmdstart.toNat + 5 + rd.xc.toNat ∧ rd.xc.toNat < rd.nx.toNat
  | .operand => rd.pos.toNat = rd.cmdstart.toNat + 2

/-- The invariant of a running decode: before `ClearBitmap` the cursor and the count are 0 (R89); in the
loop CMDSTART is the escape of the current command (R44), and the cursor and the count are bounded by
the bytes of the commands completed (R33, R34). -/
structure State.DecodeInv (s : State) : Prop where
  cleared : s.phase = .decode .clear → s.regs.ycur = 0 ∧ s.regs.unrec = 0
  located : s.phase = .decode .loop → s.rd.Located
  ycurBound : s.phase = .decode .loop → 5 * s.regs.ycur.toNat ≤ 8 * s.rd.itemStart
  unrecBound : s.phase = .decode .loop → 2 * s.regs.unrec.toNat ≤ s.rd.itemStart

/-- No run from this state ends in a fault. -/
def State.NeverFaults (s : State) : Prop :=
  ∀ (k : Nat) (r : Fault), Sys2Proof.core.run k s ≠ .fault r

end Sys2Proof.Machine
end

