-- ==== Sys2Proof/Certificates/Slice0/Obligations.lean ====
section
/-! DEFINITION. The statements for the provers, from the numbered rules of spec/. `core.run k s` is k steps
of the machine; `exec i s` is one step of the instruction i. A statement `exec i s = .next t` with `t` an
update of `s` says its whole frame: every component not named is as before. -/

namespace Sys2Proof.Machine

/-! ## Words the statements use -/

/-- R87: the word is bad, evaluated against the register values at the write. -/
abbrev BadWord (w : Word) (s : State) : Prop :=
  (w.extractLsb' 4 4 ≠ 0 ∨ w.extractLsb' 18 14 ≠ 0) ∨
  7 ≤ (w.extractLsb' 0 4).toNat ∨
  ((w.extractLsb' 0 4 = 4 ∨ w.extractLsb' 0 4 = 5) ∧ s.cfg.txCap < s.regs.txlen.toNat) ∨
  (w.extractLsb' 0 4 = 6 ∧ s.cfg.payloadCap < s.regs.paylen.toNat)

/-- The sum of bytes modulo 256 (R93). -/
def byteSum (bs : List Byte) : Byte := bs.foldl (· + ·) 0

/-- The number a length text spells (R131): one or more ASCII digits, most significant first, at most
2^32 - 1; `none` for any other text. -/
def lengthValue (ds : List Byte) : Option Nat :=
  if ds = [] ∨ ¬ ∀ d ∈ ds, 0x30 ≤ d.toNat ∧ d.toNat ≤ 0x39 then none
  else
    if ds.foldl (fun v d => 10 * v + (d.toNat - 0x30)) 0 ≤ 2 ^ 32 - 1 then
      some (ds.foldl (fun v d => 10 * v + (d.toNat - 0x30)) 0)
    else none

/-- The bytes of a list as channel answers. -/
def answers (bs : List Byte) : List ReadAnswer := bs.map ReadAnswer.byte

/-- No `limit` empty answers stand in a row, `n` of them counted already, and no answer is `fail`. -/
def paced (limit : Nat) : (n : Nat) → List ReadAnswer → Bool
  | _, [] => true
  | n, .empty :: rs => decide (n + 1 < limit) && paced limit (n + 1) rs
  | _, .byte _ :: rs => paced limit 0 rs
  | _, .fail :: _ => false

/-- `n` steps of one instruction. -/
def repeatExec (i : Instr) : Nat → State → Host.Outcome State Fault Refusal
  | 0, s => .next s
  | n + 1, s =>
    match exec i s with
    | .next t => repeatExec i n t
    | .fault f => .fault f
    | .refused r => .refused r

/-- The next turn is the block's, and `ts` is the schedule after it: a scheduled turn, or none left
(notes/assumptions/4.md). -/
def State.BlockMoves (s : State) (ts : List Turn) : Prop :=
  (s.env.turns = [] ∧ ts = []) ∨ s.env.turns = .block :: ts

/-- The running DECODE's own command word. -/
def State.decodeInstr (s : State) : Instr := .decode s.latch.stop s.latch.bufsel s.latch.kind

/-- The bytes `bs` stand in PAYLOAD from POS on, before PAYLEN. -/
def State.StreamAt (s : State) (bs : List Byte) : Prop :=
  s.rd.pos.toNat + bs.length ≤ s.regs.paylen.toNat ∧
  ∀ j, j < bs.length → s.byteAt .payload (s.rd.pos.toNat + j) = bs.getD j 0

/-- The command frame in TXBUF (R91). -/
def State.commandFrame (s : State) : List Byte :=
  (List.range s.regs.txlen.toNat).map (s.byteAt .txbuf) ++ [0x0D]

/-- `t` holds the bytes `bs` from index 0 of the buffer, cut at `cap`, and everything else of every
buffer as `s` does. -/
def HoldsFront (s t : State) (sp : Space) (bs : List Byte) (cap : Nat) : Prop :=
  (∀ i, t.byteAt sp i = if i < min bs.length cap then bs.getD i 0 else s.byteAt sp i) ∧
  ∀ sp' i, sp' ≠ sp → t.byteAt sp' i = s.byteAt sp' i

/-- The data bytes of each bit-image command of a listing, in order. -/
def strips (is : List Instr) : List (List Byte) :=
  is.filterMap fun i => match i with
    | .escBitimg _ _ data => some data
    | _ => none

/-- How many unrecognised escapes a listing holds. -/
def unrecCount (is : List Instr) : Nat :=
  (is.filter fun i => match i with
    | .escUnrec _ => true
    | _ => false).length

/-- The phases whose next step is a `ChRead` (R226). -/
def Phase.reads : Phase → Bool
  | .readUntil _ | .readBlock _ | .readFrame (.token _) | .readFrame (.block _) => true
  | .transactS (.ack _) | .transactS (.second _) => true
  | .transactG (.ack _) | .transactG (.frame (.token _)) | .transactG (.frame (.block _)) => true
  | _ => false

/-- The registers once the first lines of the read at hand have run: its length register is 0 (R118,
R124). -/
def State.readRegs (s : State) : HostRegs :=
  match s.phase with
  | .readUntil .start => (s.setTokenLen s.latch.bufsel 0).regs
  | .transactS (.ack .start) | .transactG (.ack .start) => { s.regs with acklen := 0 }
  | .readFrame (.token .start) | .transactG (.frame (.token .start)) => { s.regs with strlen := 0 }
  | .transactS (.second .start) => { s.regs with strlen := 0 }
  | .readBlock .start | .readFrame (.block .start) => { s.regs with paylen := 0 }
  | .transactG (.frame (.block .start)) => { s.regs with paylen := 0 }
  | _ => s.regs

/-- The phases inside a read's loop: its first lines have run. -/
def Phase.inLoop : Phase → Bool
  | .readUntil .loop | .readBlock .loop | .readFrame (.token .loop) => true
  | .readFrame (.block .loop) | .transactS (.ack .loop) | .transactS (.second .loop) => true
  | .transactG (.ack .loop) | .transactG (.frame (.token .loop)) => true
  | .transactG (.frame (.block .loop)) => true
  | _ => false

/-- A phase at the start of a read is its loop once the read's first lines have run. -/
def Phase.looped : Phase → Phase
  | .readUntil .start => .readUntil .loop
  | .readBlock .start => .readBlock .loop
  | .readFrame (.token .start) => .readFrame (.token .loop)
  | .readFrame (.block .start) => .readFrame (.block .loop)
  | .transactS (.ack .start) => .transactS (.ack .loop)
  | .transactS (.second .start) => .transactS (.second .loop)
  | .transactG (.ack .start) => .transactG (.ack .loop)
  | .transactG (.frame (.token .start)) => .transactG (.frame (.token .loop))
  | .transactG (.frame (.block .start)) => .transactG (.frame (.block .loop))
  | p => p

/-- The phases at the start of a block read. -/
def Phase.startsBlock : Phase → Bool
  | .readBlock .start | .readFrame (.block .start) | .transactG (.frame (.block .start)) => true
  | _ => false

/-- The state once the first lines of the read at hand have run (R117, R118, R124): its length register,
its counters and PAY_TRUNC; inside a read's loop the state itself. -/
def State.enterRead (s : State) : State :=
  if s.phase.inLoop then s
  else if s.phase.startsBlock then
    { s with
      phase := s.phase.looped
      regs := s.readRegs
      fr := { s.fr with emptycnt := 0, remain := s.regs.blklen, idx := 0, sumacc := 0 }
      status := { s.status with
        payTrunc := s.status.payTrunc || decide (s.cfg.payloadCap < s.regs.blklen.toNat) } }
  else
    { s with
      phase := s.phase.looped, regs := s.readRegs, fr := { s.fr with ovf := false, emptycnt := 0 } }

/-- The data bytes among the first `n` bytes of an instruction's code. -/
def dataBefore (n : Nat) : Instr → List Byte
  | .escBitimg _ _ data => data.take (n - 5)
  | _ => []

/-- A transaction of either kind. -/
def transact (graphics : Bool) (stop : Byte) (bufsel : Bool) : Instr :=
  if graphics then .transactG stop bufsel else .transactS stop bufsel

/-- STATUS right after the acceptance of a TRANSACT, with DONE and the error of its end, and the ack flags
as given (R88, R89, R214). -/
def State.transactStatus (s : State) (e : ErrCode) (ackValid ackOk : Bool) : Status :=
  { s.status with
    done := true, hostErr := false, err := e, chkValid := false, chkOk := false, payTrunc := false
    ackValid := ackValid, ackOk := ackOk }

end Sys2Proof.Machine

open Sys2Proof Sys2Proof.Machine

/-! ## Encoding -/

/-- Every well-formed instruction, with every operand, is read back from its own code (R85, R86, R96 to
R100). -/
def Obligations.EncodedInstructionDecodes : Prop :=
  ∀ (c : Config) (i : Instr), c.Legal → i.wf c = true → decodeCode c (encode c i) = some i

/-- A stream instruction is read back whatever bytes follow it: the decoder finds its length (R100). -/
def Obligations.StreamItemDecodesBeforeAnyTail : Prop :=
  ∀ (c : Config) (i : Instr) (tail : List Byte), c.Legal → i.wf c = true → i.isCommand = false →
    decodeStream c ((encode c i).stream ++ tail) = .ok (i, tail) ∧
    (encode c i).stream.length = i.length

/-- Every word written to CMD is one well-formed command, whose code is that word: no bit is dropped. -/
def Obligations.EveryCommandWordReencodes : Prop :=
  ∀ (c : Config) (w : Word),
    (decodeWord w).isCommand = true ∧ (decodeWord w).wf c = true ∧ encode c (decodeWord w) = .word w

/-- An item read from a stream is well-formed, and its bytes are the ones read (R96, R102). -/
def Obligations.DecodedStreamItemReencodes : Prop :=
  ∀ (c : Config) (bs rest : List Byte) (i : Instr), decodeStream c bs = .ok (i, rest) →
    i.isCommand = false ∧ i.wf c = true ∧ (encode c i).stream ++ rest = bs

/-- Words and bytes written out from R86, R87, R97 and R103 decode to what they stand for, the bytes in
the reference configuration. That 0x1B 0x1B is ESC.UNREC 0x1B rests on its default selectors 0x6B and
0x50, neither of which is 0x1B (R8, R102; notes/assumptions/3.md). -/
def Obligations.SampleCodesDecode : Prop :=
  decodeWord 0x00010D01 = .readUntil 0x0D true false ∧
  decodeWord 0x00000017 = .badOp7 1 ∧
  decodeWord 0x00000016 = .badReserved 6 1 0 0 ∧
  decodeWord 0x00000D06 = .decode 0x0D false false ∧
  decodeWord 0x00020005 = .transactG 0 false ∧
  decodeStream Config.reference [0x1B, 0x2A, 0x00, 0x01, 0x00, 0xFF, 0x1B] =
    .ok (.escBitimg 0 1 [0xFF], [0x1B]) ∧
  decodeStream Config.reference [0x1B, 0x1B, 0x40] = .ok (.escUnrec 0x1B, [0x40])

/-! ## A step runs the decoded instruction -/

/-- The host's write of a word to an idle block's CMD is a step of the word's instruction (R24, R88). -/
def Obligations.StepRunsTheCommandWord : Prop :=
  ∀ (s : State) (w : Word) (ts : List Turn),
    s.env.turns = .host (.regWrite 32 0 w) :: ts → s.phase = .idle →
    step s = exec (decodeWord w) (s.setTurns ts)

/-- In DECODE's loop, with a whole well-formed command at POS, the block's step, scheduled or by an
exhausted schedule (notes/assumptions/4.md), runs that command (R160, R164). -/
def Obligations.StepRunsTheStreamCommand : Prop :=
  ∀ (s : State) (i : Instr) (ts : List Turn),
    s.Inv → s.BlockMoves ts → s.phase = .decode .loop → s.rd.pstate = .text →
    i.isCommand = false → i.wf s.cfg = true → s.StreamAt (encode s.cfg i).stream →
    step s = exec i (s.setTurns ts)

/-- While an operation runs, the block's step, scheduled or by an exhausted schedule
(notes/assumptions/4.md), is a step of its own command word, with the fields R88 latched; in DECODE's loop
where no whole command stands at POS: inside a command, at its cut-short front (R96 `partial`), or at the
end. The turn of an idle block changes nothing (R230). -/
def Obligations.StepRunsTheLatchedOperation : Prop :=
  ∀ (s : State) (ts : List Turn), s.BlockMoves ts →
    (s.phase = .idle → step s = .next (s.setTurns ts)) ∧
    (s.phase = .nop →
      step s = exec (.nop s.latch.stop s.latch.bufsel s.latch.kind) (s.setTurns ts)) ∧
    (∀ t, s.phase = .readUntil t →
      step s = exec (.readUntil s.latch.stop s.latch.bufsel s.latch.kind) (s.setTurns ts)) ∧
    (∀ p, s.phase = .readBlock p →
      step s = exec (.readBlock s.latch.stop s.latch.bufsel s.latch.kind) (s.setTurns ts)) ∧
    (∀ p, s.phase = .readFrame p →
      step s = exec (.readFrame s.latch.stop s.latch.bufsel s.latch.kind) (s.setTurns ts)) ∧
    (s.phase = .send →
      step s = exec (.send s.latch.stop s.latch.bufsel s.latch.kind) (s.setTurns ts)) ∧
    (∀ p, s.phase = .transactS p →
      step s = exec (.transactS s.latch.stop s.latch.bufsel) (s.setTurns ts)) ∧
    (∀ p, s.phase = .transactG p →
      step s = exec (.transactG s.latch.stop s.latch.bufsel) (s.setTurns ts)) ∧
    (s.phase = .decode .clear → step s = exec s.decodeInstr (s.setTurns ts)) ∧
    (s.phase = .decode .loop → s.rd.pstate ≠ .text →
      step s = exec s.decodeInstr (s.setTurns ts)) ∧
    (∀ e, s.phase = .decode .loop → decodeStream s.cfg s.streamBytes = .error e →
      step s = exec s.decodeInstr (s.setTurns ts)) ∧
    (s.phase = .decode .loop → s.regs.paylen.toNat ≤ s.rd.pos.toNat →
      step s = exec s.decodeInstr (s.setTurns ts))

/-! ## Starting an operation -/

/-- A bad word (R87) written to an idle block's CMD is rejected (R213), and no other word is. -/
def Obligations.ExactlyBadWordsAreRejected : Prop :=
  ∀ (s : State) (w : Word) (ts : List Turn),
    s.env.turns = .host (.regWrite 32 0 w) :: ts → s.phase = .idle →
    (BadWord w s → step s = .next { s with
      status := { s.status with done := true, hostErr := false, err := .badCommand }
      env := { s.env with turns := ts } }) ∧
    (¬ BadWord w s → ∃ t, step s = .next t ∧ t.busy = true ∧ t.status.err = .noError)

/-- The three kinds of bad word are rejected by an idle block: DONE, ERR = BAD_COMMAND, HOST_ERR
cleared, and nothing else (R213). -/
def Obligations.BadWordInstructionsReject : Prop :=
  ∀ s : State, s.phase = .idle →
    (∀ rest, exec (.badOp7 rest) s = .next { s with
      status := { s.status with done := true, hostErr := false, err := .badCommand } }) ∧
    (∀ low rest, exec (.badOp8F low rest) s = .next { s with
      status := { s.status with done := true, hostErr := false, err := .badCommand } }) ∧
    (∀ op lo mid hi, exec (.badReserved op lo mid hi) s = .next { s with
      status := { s.status with done := true, hostErr := false, err := .badCommand } })

/-- The acceptance step of each operation on an idle block (R88) with its clears (R89). -/
def Obligations.AcceptedOperationsStart : Prop :=
  ∀ (s : State) (stop : Byte) (bufsel kind : Bool), s.phase = .idle →
    exec (.nop stop bufsel kind) s = .next { s with
      phase := .nop, latch := ⟨stop, bufsel, kind⟩
      status := { s.status with done := false, hostErr := false, err := .noError } } ∧
    exec (.readUntil stop bufsel kind) s = .next { s with
      phase := .readUntil .start, latch := ⟨stop, bufsel, kind⟩
      status := { s.status with done := false, hostErr := false, err := .noError } } ∧
    exec (.readBlock stop bufsel kind) s = .next { s with
      phase := .readBlock .start, latch := ⟨stop, bufsel, kind⟩
      regs := { s.regs with sum := 0, rxchk := 0 }
      status := { s.status with done := false, hostErr := false, err := .noError
                                chkValid := false, chkOk := false, payTrunc := false } } ∧
    exec (.readFrame stop bufsel kind) s = .next { s with
      phase := .readFrame (.token .start), latch := ⟨stop, bufsel, kind⟩
      regs := { s.regs with sum := 0, rxchk := 0 }
      status := { s.status with done := false, hostErr := false, err := .noError
                                chkValid := false, chkOk := false, payTrunc := false } } ∧
    (s.regs.txlen.toNat ≤ s.cfg.txCap →
      exec (.send stop bufsel kind) s = .next { s with
        phase := .send, latch := ⟨stop, bufsel, kind⟩
        status := { s.status with done := false, hostErr := false, err := .noError } } ∧
      exec (.transactS stop bufsel) s = .next { s with
        phase := .transactS .send, latch := ⟨stop, bufsel, false⟩
        regs := { s.regs with sum := 0, rxchk := 0, strlen := 0 }
        status := { s.status with done := false, hostErr := false, err := .noError
                                  chkValid := false, chkOk := false, payTrunc := false
                                  ackValid := false, ackOk := false } } ∧
      exec (.transactG stop bufsel) s = .next { s with
        phase := .transactG .send, latch := ⟨stop, bufsel, true⟩
        regs := { s.regs with sum := 0, rxchk := 0, strlen := 0 }
        status := { s.status with done := false, hostErr := false, err := .noError
                                  chkValid := false, chkOk := false, payTrunc := false
                                  ackValid := false, ackOk := false } }) ∧
    (s.regs.paylen.toNat ≤ s.cfg.payloadCap →
      exec (.decode stop bufsel kind) s = .next { s with
        phase := .decode .clear, latch := ⟨stop, bufsel, kind⟩
        regs := { s.regs with ycur := 0, unrec := 0 }
        status := { s.status with done := false, hostErr := false, err := .noError
                                  malformed := false } })

/-! ## The frame reader's operations, whole -/

/-- NOP ends in the step after its acceptance, and changes nothing but DONE, HOST_ERR, ERR and the
latched fields (R115, R216). -/
def Obligations.NopRunEnds : Prop :=
  ∀ (s : State) (stop : Byte) (bufsel kind : Bool), s.phase = .idle → s.env.turns = [] →
    ∃ s1, exec (.nop stop bufsel kind) s = .next s1 ∧ s1.busy = true ∧
      core.run 1 s1 = .next { s with
        latch := ⟨stop, bufsel, kind⟩
        status := { s.status with done := true, hostErr := false, err := .noError } }

/-- A whole READ_UNTIL (R116 to R120): from a channel that delivers the token's bytes and the stop byte,
with empty answers between them that never reach EMPTY_LIMIT in a row, it consumes exactly the bytes up
to and including the stop byte, stores the token without it, cut at TOKEN_CAP, and overflows only beyond
TOKEN_CAP. -/
def Obligations.DelimitedReadRun : Prop :=
  ∀ (s : State) (stop : Byte) (ack kind : Bool) (token : List Byte) (rs rest : List ReadAnswer),
    s.Inv → s.phase = .idle → s.env.turns = [] → stop ∉ token →
    rs.filter (· ≠ ReadAnswer.empty) = answers token → paced s.cfg.emptyLimit 0 rs = true →
    s.env.reads = rs ++ ReadAnswer.byte stop :: rest →
    ∃ s1 k t, exec (.readUntil stop ack kind) s = .next s1 ∧ core.run k s1 = .next t ∧
      t.phase = .idle ∧ t.cfg = s.cfg ∧ t.rd = s.rd ∧ t.latch = ⟨stop, ack, kind⟩ ∧
      t.env = { s.env with reads := rest } ∧
      t.regs = (s.setTokenLen ack (BitVec.ofNat 32 (min token.length s.cfg.tokenCap))).regs ∧
      t.status = { s.status with done := true, hostErr := false
                                 err := if token.length ≤ s.cfg.tokenCap then .noError
                                        else .tokenOverflow } ∧
      HoldsFront s t (tokenSpace ack) token s.cfg.tokenCap

/-- A whole READ_BLOCK (R123 to R127): from a channel that delivers N data bytes and a checksum byte, with
empty answers between them that never reach EMPTY_LIMIT in a row, exactly N + 1 bytes are consumed
whatever they are, the first PAYLOAD_CAP are stored, CHKSUM covers all N, and a mismatch is no error. -/
def Obligations.ChecksummedBlockRun : Prop :=
  ∀ (s : State) (stop : Byte) (bufsel kind : Bool) (data : List Byte) (c : Byte)
    (rs rest : List ReadAnswer),
    s.Inv → s.phase = .idle → s.env.turns = [] → s.regs.blklen.toNat = data.length →
    rs.filter (· ≠ ReadAnswer.empty) = answers data → paced s.cfg.emptyLimit 0 rs = true →
    s.env.reads = rs ++ ReadAnswer.byte c :: rest →
    ∃ s1 k t, exec (.readBlock stop bufsel kind) s = .next s1 ∧ core.run k s1 = .next t ∧
      t.phase = .idle ∧ t.cfg = s.cfg ∧ t.rd = s.rd ∧ t.latch = ⟨stop, bufsel, kind⟩ ∧
      t.env = { s.env with reads := rest } ∧
      t.regs = { s.regs with paylen := BitVec.ofNat 32 (min data.length s.cfg.payloadCap)
                             sum := byteSum data, rxchk := c } ∧
      t.status = { s.status with done := true, hostErr := false, err := .noError, chkValid := true
                                 chkOk := decide (byteSum data = c)
                                 payTrunc := decide (s.cfg.payloadCap < data.length) } ∧
      HoldsFront s t .payload data s.cfg.payloadCap

/-- A whole READ_FRAME (R130): a length text, a comma, and a checksummed block of that length. The number
of steps is the model's (notes/assumptions/10.md, 11.md). -/
def Obligations.LengthPrefixedFrameRun : Prop :=
  ∀ (s : State) (stop : Byte) (bufsel kind : Bool) (digits data : List Byte) (c : Byte)
    (rest : List ReadAnswer),
    s.Inv → s.phase = .idle → s.env.turns = [] → digits.length ≤ s.cfg.tokenCap →
    lengthValue digits = some data.length →
    s.env.reads = answers digits ++ ReadAnswer.byte 0x2C :: (answers data ++ ReadAnswer.byte c :: rest) →
    ∃ s1 t, exec (.readFrame stop bufsel kind) s = .next s1 ∧
      core.run (digits.length + data.length + 3) s1 = .next t ∧
      t.phase = .idle ∧ t.cfg = s.cfg ∧ t.rd = s.rd ∧ t.latch = ⟨stop, bufsel, kind⟩ ∧
      t.env = { s.env with reads := rest } ∧
      t.regs = { s.regs with strlen := BitVec.ofNat 32 digits.length
                             blklen := BitVec.ofNat 32 data.length
                             paylen := BitVec.ofNat 32 (min data.length s.cfg.payloadCap)
                             sum := byteSum data, rxchk := c } ∧
      t.status = { s.status with done := true, hostErr := false, err := .noError, chkValid := true
                                 chkOk := decide (byteSum data = c)
                                 payTrunc := decide (s.cfg.payloadCap < data.length) } ∧
      (∀ i, t.byteAt .strbuf i =
        if i < digits.length then digits.getD i 0 else s.byteAt .strbuf i) ∧
      (∀ i, t.byteAt .payload i =
        if i < min data.length s.cfg.payloadCap then data.getD i 0 else s.byteAt .payload i) ∧
      (∀ sp i, sp ≠ .strbuf → sp ≠ .payload → t.byteAt sp i = s.byteAt sp i)

/-- A whole SEND (R136, R137): TXBUF[0..TXLEN-1] and 0x0D in one write; any answer but `Ok` of the whole
length is WRITE_FAIL; no byte is read. -/
def Obligations.SendRunWritesTheFrame : Prop :=
  ∀ (s : State) (stop : Byte) (bufsel kind : Bool) (a : WriteAnswer) (ws : List WriteAnswer),
    s.phase = .idle → s.env.turns = [] → s.regs.txlen.toNat ≤ s.cfg.txCap →
    s.env.writes = a :: ws →
    ∃ s1, exec (.send stop bufsel kind) s = .next s1 ∧ s1.busy = true ∧
      core.run 1 s1 = .next { s with
        latch := ⟨stop, bufsel, kind⟩
        status := { s.status with done := true, hostErr := false
                                  err := if a = .ok s.commandFrame.length then .noError
                                         else .writeFail }
        env := { s.env with writes := ws, sent := s.commandFrame :: s.env.sent } }

/-- A whole successful TRANSACT.S (R94, R140): one write, the ack token, the second string.
The number of steps is the model's (notes/assumptions/10.md). -/
def Obligations.SimpleTransactionRun : Prop :=
  ∀ (s : State) (stop : Byte) (bufsel : Bool) (ack text : List Byte) (ws : List WriteAnswer)
    (rest : List ReadAnswer),
    s.Inv → s.phase = .idle → s.env.turns = [] → s.regs.txlen.toNat ≤ s.cfg.txCap →
    s.env.writes = .ok s.commandFrame.length :: ws →
    (0x30 :: ack).length ≤ s.cfg.tokenCap → text.length ≤ s.cfg.tokenCap →
    0x0D ∉ ack → 0x0D ∉ text →
    s.env.reads = answers (0x30 :: ack) ++ ReadAnswer.byte 0x0D :: (answers text ++ ReadAnswer.byte 0x0D :: rest) →
    ∃ s1 t, exec (.transactS stop bufsel) s = .next s1 ∧
      core.run (ack.length + text.length + 4) s1 = .next t ∧
      t.phase = .idle ∧ t.cfg = s.cfg ∧ t.rd = s.rd ∧ t.latch = ⟨stop, bufsel, false⟩ ∧
      t.env = { s.env with reads := rest, writes := ws, sent := s.commandFrame :: s.env.sent } ∧
      t.regs = { s.regs with acklen := BitVec.ofNat 32 (ack.length + 1)
                             strlen := BitVec.ofNat 32 text.length, sum := 0, rxchk := 0 } ∧
      t.status = { s.status with done := true, hostErr := false, err := .noError
                                 chkValid := false, chkOk := false, payTrunc := false
                                 ackValid := true, ackOk := true } ∧
      (∀ i, t.byteAt .ackbuf i =
        if i < (0x30 :: ack).length then (0x30 :: ack).getD i 0 else s.byteAt .ackbuf i) ∧
      (∀ i, t.byteAt .strbuf i = if i < text.length then text.getD i 0 else s.byteAt .strbuf i) ∧
      (∀ sp i, sp ≠ .ackbuf → sp ≠ .strbuf → t.byteAt sp i = s.byteAt sp i)

/-- A whole successful TRANSACT.G (R95, R141): one write, the ack token, the decimal length, the
checksummed block. The number of steps is the model's (notes/assumptions/10.md, 11.md). -/
def Obligations.GraphicsTransactionRun : Prop :=
  ∀ (s : State) (stop : Byte) (bufsel : Bool) (ack digits data : List Byte) (c : Byte)
    (ws : List WriteAnswer) (rest : List ReadAnswer),
    s.Inv → s.phase = .idle → s.env.turns = [] → s.regs.txlen.toNat ≤ s.cfg.txCap →
    s.env.writes = .ok s.commandFrame.length :: ws →
    (0x30 :: ack).length ≤ s.cfg.tokenCap → digits.length ≤ s.cfg.tokenCap →
    0x0D ∉ ack → lengthValue digits = some data.length →
    s.env.reads = answers (0x30 :: ack) ++ ReadAnswer.byte 0x0D ::
      (answers digits ++ ReadAnswer.byte 0x2C :: (answers data ++ ReadAnswer.byte c :: rest)) →
    ∃ s1 t, exec (.transactG stop bufsel) s = .next s1 ∧
      core.run (ack.length + digits.length + data.length + 6) s1 = .next t ∧
      t.phase = .idle ∧ t.cfg = s.cfg ∧ t.rd = s.rd ∧ t.latch = ⟨stop, bufsel, true⟩ ∧
      t.env = { s.env with reads := rest, writes := ws, sent := s.commandFrame :: s.env.sent } ∧
      t.regs = { s.regs with acklen := BitVec.ofNat 32 (ack.length + 1)
                             strlen := BitVec.ofNat 32 digits.length
                             blklen := BitVec.ofNat 32 data.length
                             paylen := BitVec.ofNat 32 (min data.length s.cfg.payloadCap)
                             sum := byteSum data, rxchk := c } ∧
      t.status = { s.status with done := true, hostErr := false, err := .noError
                                 chkValid := true, chkOk := decide (byteSum data = c)
                                 payTrunc := decide (s.cfg.payloadCap < data.length)
                                 ackValid := true, ackOk := true } ∧
      (∀ i, t.byteAt .ackbuf i =
        if i < (0x30 :: ack).length then (0x30 :: ack).getD i 0 else s.byteAt .ackbuf i) ∧
      (∀ i, t.byteAt .strbuf i =
        if i < digits.length then digits.getD i 0 else s.byteAt .strbuf i) ∧
      (∀ i, t.byteAt .payload i =
        if i < min data.length s.cfg.payloadCap then data.getD i 0 else s.byteAt .payload i) ∧
      (∀ i, t.byteAt .txbuf i = s.byteAt .txbuf i) ∧ (∀ i, t.byteAt .bitmap i = s.byteAt .bitmap i)

/-- A non-success ack, empty or not beginning with 0x30, ends either transaction with ERR = 0, after the
ack token alone (R142, R143). -/
def Obligations.NonSuccessAckEndsTheTransaction : Prop :=
  ∀ (s : State) (stop : Byte) (bufsel graphics : Bool) (ack : List Byte) (ws : List WriteAnswer)
    (rest : List ReadAnswer),
    s.Inv → s.phase = .idle → s.env.turns = [] → s.regs.txlen.toNat ≤ s.cfg.txCap →
    s.env.writes = .ok s.commandFrame.length :: ws →
    ack.length ≤ s.cfg.tokenCap → 0x0D ∉ ack → ack.head? ≠ some 0x30 →
    s.env.reads = answers ack ++ ReadAnswer.byte 0x0D :: rest →
    ∃ s1 k t,
      exec (if graphics then .transactG stop bufsel else .transactS stop bufsel) s = .next s1 ∧
      core.run k s1 = .next t ∧
      t.phase = .idle ∧ t.cfg = s.cfg ∧ t.rd = s.rd ∧ t.latch = ⟨stop, bufsel, graphics⟩ ∧
      t.env = { s.env with reads := rest, writes := ws, sent := s.commandFrame :: s.env.sent } ∧
      t.regs = { s.regs with acklen := BitVec.ofNat 32 ack.length
                             strlen := 0, sum := 0, rxchk := 0 } ∧
      t.status = { s.status with done := true, hostErr := false, err := .noError
                                 chkValid := false, chkOk := false, payTrunc := false
                                 ackValid := true, ackOk := false } ∧
      HoldsFront s t .ackbuf ack s.cfg.tokenCap

/-- A failed or short write of the command frame ends either transaction with WRITE_FAIL: nothing is
read, ACK_VALID stays 0, and nothing changes but what acceptance clears (R137, R215). -/
def Obligations.FailedWriteEndsTheTransaction : Prop :=
  ∀ (s : State) (stop : Byte) (bufsel graphics : Bool) (a : WriteAnswer) (ws : List WriteAnswer),
    s.phase = .idle → s.env.turns = [] → s.regs.txlen.toNat ≤ s.cfg.txCap →
    s.env.writes = a :: ws → a ≠ .ok s.commandFrame.length →
    ∃ s1, exec (transact graphics stop bufsel) s = .next s1 ∧ s1.busy = true ∧
      core.run 1 s1 = .next { s with
        latch := ⟨stop, bufsel, graphics⟩
        regs := { s.regs with sum := 0, rxchk := 0, strlen := 0 }
        status := s.transactStatus .writeFail false false
        env := { s.env with writes := ws, sent := s.commandFrame :: s.env.sent } }

/-- An ack token longer than TOKEN_CAP ends either transaction with TOKEN_OVERFLOW: its first TOKEN_CAP
bytes are stored, its stop byte is consumed, ACK_VALID stays 0, and nothing more is read (R119, R140,
R215). -/
def Obligations.AckOverflowEndsTheTransaction : Prop :=
  ∀ (s : State) (stop : Byte) (bufsel graphics : Bool) (ack : List Byte) (ws : List WriteAnswer)
    (rest : List ReadAnswer),
    s.Inv → s.phase = .idle → s.env.turns = [] → s.regs.txlen.toNat ≤ s.cfg.txCap →
    s.env.writes = .ok s.commandFrame.length :: ws →
    s.cfg.tokenCap < ack.length → 0x0D ∉ ack →
    s.env.reads = answers ack ++ ReadAnswer.byte 0x0D :: rest →
    ∃ s1 k t, exec (transact graphics stop bufsel) s = .next s1 ∧ core.run k s1 = .next t ∧
      t.phase = .idle ∧ t.cfg = s.cfg ∧ t.rd = s.rd ∧ t.latch = ⟨stop, bufsel, graphics⟩ ∧
      t.env = { s.env with reads := rest, writes := ws, sent := s.commandFrame :: s.env.sent } ∧
      t.regs = { s.regs with acklen := BitVec.ofNat 32 s.cfg.tokenCap
                             strlen := 0, sum := 0, rxchk := 0 } ∧
      t.status = s.transactStatus .tokenOverflow false false ∧
      HoldsFront s t .ackbuf ack s.cfg.tokenCap

/-- After a successful ack, a second string (TRANSACT.S, stop 0x0D) or a length text (TRANSACT.G, stop
0x2C) longer than TOKEN_CAP ends the transaction with TOKEN_OVERFLOW: its first TOKEN_CAP bytes are stored,
its stop byte is consumed, no length is parsed and no block is read (R119, R140, R141, R215). -/
def Obligations.SecondTokenOverflowEndsTheTransaction : Prop :=
  ∀ (s : State) (stop sep : Byte) (bufsel graphics : Bool) (ack text : List Byte)
    (ws : List WriteAnswer) (rest : List ReadAnswer),
    s.Inv → s.phase = .idle → s.env.turns = [] → s.regs.txlen.toNat ≤ s.cfg.txCap →
    s.env.writes = .ok s.commandFrame.length :: ws →
    (0x30 :: ack).length ≤ s.cfg.tokenCap → 0x0D ∉ ack →
    sep = (if graphics then 0x2C else 0x0D) → s.cfg.tokenCap < text.length → sep ∉ text →
    s.env.reads = answers (0x30 :: ack) ++ ReadAnswer.byte 0x0D ::
      (answers text ++ ReadAnswer.byte sep :: rest) →
    ∃ s1 k t, exec (transact graphics stop bufsel) s = .next s1 ∧ core.run k s1 = .next t ∧
      t.phase = .idle ∧ t.cfg = s.cfg ∧ t.rd = s.rd ∧ t.latch = ⟨stop, bufsel, graphics⟩ ∧
      t.env = { s.env with reads := rest, writes := ws, sent := s.commandFrame :: s.env.sent } ∧
      t.regs = { s.regs with acklen := BitVec.ofNat 32 (ack.length + 1)
                             strlen := BitVec.ofNat 32 s.cfg.tokenCap, sum := 0, rxchk := 0 } ∧
      t.status = s.transactStatus .tokenOverflow true true ∧
      (∀ i, t.byteAt .ackbuf i =
        if i < (0x30 :: ack).length then (0x30 :: ack).getD i 0 else s.byteAt .ackbuf i) ∧
      (∀ i, t.byteAt .strbuf i =
        if i < s.cfg.tokenCap then text.getD i 0 else s.byteAt .strbuf i) ∧
      (∀ sp i, sp ≠ .ackbuf → sp ≠ .strbuf → t.byteAt sp i = s.byteAt sp i)

/-- A length text longer than TOKEN_CAP ends READ_FRAME with TOKEN_OVERFLOW: its first TOKEN_CAP bytes are
stored, its comma is consumed, it is not parsed, and no block is read: BLKLEN, PAYLEN and PAYLOAD keep
their values (R119, R130, R215). -/
def Obligations.LengthTextOverflowEndsTheFrame : Prop :=
  ∀ (s : State) (stop : Byte) (bufsel kind : Bool) (text : List Byte) (rest : List ReadAnswer),
    s.Inv → s.phase = .idle → s.env.turns = [] → s.cfg.tokenCap < text.length → 0x2C ∉ text →
    s.env.reads = answers text ++ ReadAnswer.byte 0x2C :: rest →
    ∃ s1 k t, exec (.readFrame stop bufsel kind) s = .next s1 ∧ core.run k s1 = .next t ∧
      t.phase = .idle ∧ t.cfg = s.cfg ∧ t.rd = s.rd ∧ t.latch = ⟨stop, bufsel, kind⟩ ∧
      t.env = { s.env with reads := rest } ∧
      t.regs = { s.regs with strlen := BitVec.ofNat 32 s.cfg.tokenCap, sum := 0, rxchk := 0 } ∧
      t.status = { s.status with done := true, hostErr := false, err := .tokenOverflow
                                 chkValid := false, chkOk := false, payTrunc := false } ∧
      HoldsFront s t .strbuf text s.cfg.tokenCap

/-! ## The frame reader's steps -/

/-- The length text is read as a decimal number or ends the operation with LENGTH_FORMAT, BLKLEN
unchanged, in one step with no channel access (R131). That the write of BLKLEN and the entry of the
block's phase (R130, R141) are in that step is the model's reading (notes/assumptions/11.md). -/
def Obligations.LengthTextParses : Prop :=
  ∀ (s : State) (stop : Byte) (bufsel kind : Bool) (text : List Byte),
    text.length ≤ s.cfg.tokenCap → s.regs.strlen.toNat = text.length →
    (∀ i, i < text.length → s.byteAt .strbuf i = text.getD i 0) →
    (s.phase = .readFrame .parse →
      exec (.readFrame stop bufsel kind) s =
        match lengthValue text with
        | some n => .next { s with
            phase := .readFrame (.block .start)
            regs := { s.regs with blklen := BitVec.ofNat 32 n } }
        | none => .next { s with
            phase := .idle, status := { s.status with done := true, err := .lengthFormat } }) ∧
    (s.phase = .transactG (.frame .parse) →
      exec (.transactG stop bufsel) s =
        match lengthValue text with
        | some n => .next { s with
            phase := .transactG (.frame (.block .start))
            regs := { s.regs with blklen := BitVec.ofNat 32 n } }
        | none => .next { s with
            phase := .idle, status := { s.status with done := true, err := .lengthFormat } })

/-- A failed channel read ends every reading operation with READ_FAIL at that step, and changes nothing
else: what was stored stays stored, the length register is the count stored so far, PAY_TRUNC is as the
read's first lines set it (R121, R128). At a read's start its first lines run in the same step, the model's
reading (notes/assumptions/10.md). -/
def Obligations.ChannelReadFailureEndsTheOperation : Prop :=
  ∀ (s : State) (rest : List ReadAnswer),
    s.phase.reads = true → s.env.turns = [] → s.env.reads = .fail :: rest →
    step s = .next { s.enterRead with
      phase := .idle
      status := { s.enterRead.status with done := true, err := .readFail }
      env := { s.env with reads := rest } }

/-- In every read, from its first answer on, the empty answer that brings the count to EMPTY_LIMIT ends
the operation with READ_TIMEOUT, and changes nothing else (R122, R128). At a read's start its first lines
run in the same step, the model's reading (notes/assumptions/10.md): with EMPTY_LIMIT = 1 the first answer
ends it. -/
def Obligations.EmptyLimitEndsEveryRead : Prop :=
  ∀ (s : State) (rest : List ReadAnswer),
    s.phase.reads = true → s.env.turns = [] → s.env.reads = .empty :: rest →
    (s.enterRead.fr.emptycnt + 1).toNat = s.cfg.emptyLimit →
    step s = .next { s.enterRead with
      phase := .idle
      status := { s.enterRead.status with done := true, err := .readTimeout }
      fr := { s.enterRead.fr with emptycnt := s.enterRead.fr.emptycnt + 1 }
      env := { s.env with reads := rest } }

/-- EMPTY_LIMIT empty answers in a row end a READ_UNTIL with READ_TIMEOUT, no byte consumed and an empty
token (R117, R122). One step per answer is the model's reading (notes/assumptions/10.md). -/
def Obligations.EmptyReadsTimeOut : Prop :=
  ∀ (s : State) (stop : Byte) (ack kind : Bool) (rest : List ReadAnswer),
    s.Inv → s.phase = .idle → s.env.turns = [] →
    s.env.reads = List.replicate s.cfg.emptyLimit .empty ++ rest →
    ∃ s1 t, exec (.readUntil stop ack kind) s = .next s1 ∧
      core.run s.cfg.emptyLimit s1 = .next t ∧
      t.phase = .idle ∧ t.env = { s.env with reads := rest } ∧ t.bufs = s.bufs ∧
      t.regs = (s.setTokenLen ack 0).regs ∧
      t.status = { s.status with done := true, hostErr := false, err := .readTimeout }

/-- In every read an empty answer below EMPTY_LIMIT only counts, and a byte clears the count (R122). At a
read's start its first lines run in the same step, the model's reading (notes/assumptions/10.md). -/
def Obligations.EmptyCountRestartsAtAByte : Prop :=
  ∀ (s : State) (rest : List ReadAnswer),
    s.Inv → s.phase.reads = true → s.env.turns = [] →
    (s.env.reads = .empty :: rest → (s.enterRead.fr.emptycnt + 1).toNat ≠ s.cfg.emptyLimit →
      step s = .next { s.enterRead with
        fr := { s.enterRead.fr with emptycnt := s.enterRead.fr.emptycnt + 1 }
        env := { s.env with reads := rest } }) ∧
    (∀ b, s.env.reads = .byte b :: rest → ∃ t, step s = .next t ∧ t.fr.emptycnt = 0 ∧
      t.env = { s.env with reads := rest })

/-- A read whose channel never answers never ends: no number of steps changes anything (R227). -/
def Obligations.UnansweredReadHangs : Prop :=
  ∀ (s : State) (k : Nat), s.phase.reads = true → s.env.turns = [] → s.env.reads = [] →
    core.run k s = .next s

/-! ## The raster decoder -/

/-- The pixel write (R166, R64): one pixel inside W x H takes the value, every other keeps its own, and
outside W x H nothing happens. -/
def Obligations.PixelWriteChangesOnePixel : Prop :=
  ∀ (c : Config) (m : Memory) (x y : Nat) (v : Bool), c.Legal → Memory.wf m = true →
    ∃ m', pixWrite c x y v m = .ok m' ∧ Memory.wf m' = true ∧
      (∀ x' y', x' < c.w → y' < c.h →
        pixel c m' x' y' = if x' = x ∧ y' = y then v else pixel c m x' y') ∧
      (¬ (x < c.w ∧ y < c.h) → m' = m)

/-- ESC.BITIMG (R168 to R172): data byte j paints column j from bit 7 down over the 8 rows from the
vertical cursor, pixels outside W x H are dropped, every other pixel keeps its value, the cursor advances
by 8 whatever nx is, and the mode changes nothing. The command in one step with NL, NX, XC, CMDSTART, POS
and PSTATE as given is the model's reading (notes/assumptions/8.md, 15.md), and so is its effect in a state
that is not in DECODE's loop (notes/assumptions/17.md). -/
def Obligations.BitImagePaintsItsColumns : Prop :=
  ∀ (s : State) (mode : Byte) (nx : BitVec 16) (data : List Byte), s.Inv → data.length = nx.toNat →
    ∃ t, exec (.escBitimg mode nx data) s = .next t ∧
      (∀ x y, x < s.cfg.w → y < s.cfg.h →
        pixel s.cfg t.bufs.bitmap x y =
          if x < nx.toNat ∧ s.regs.ycur.toNat ≤ y ∧ y < s.regs.ycur.toNat + 8 then
            (data.getD x 0).getLsbD (7 - (y - s.regs.ycur.toNat))
          else pixel s.cfg s.bufs.bitmap x y) ∧
      t = { s with
        bufs := { s.bufs with bitmap := t.bufs.bitmap }
        regs := { s.regs with ycur := s.regs.ycur + 8 }
        rd := { pos := s.rd.pos + BitVec.ofNat 32 (5 + nx.toNat), pstate := .text
                nl := nx.extractLsb' 0 8, nx := nx, xc := nx, cmdstart := s.rd.pos } }

/-- The commands with no effect on the picture (R163, R167, R173 to R176): their bytes are consumed, and
only ESC.UNREC changes anything else, UNREC. Each command in one step, CMDSTART and PSTATE with it (R162),
is the model's reading (notes/assumptions/8.md, 15.md), and so is its effect in a state that is not in
DECODE's loop (notes/assumptions/17.md). -/
def Obligations.OtherStreamCommandsOnlyConsume : Prop :=
  ∀ s : State,
    exec .escReset s = .next { s with
      rd := { s.rd with pos := s.rd.pos + 2, cmdstart := s.rd.pos, pstate := .text } } ∧
    (∀ n, exec (.escLsp n) s = .next { s with
      rd := { s.rd with pos := s.rd.pos + 3, cmdstart := s.rd.pos, pstate := .text } }) ∧
    (∀ n, exec (.escFam n) s = .next { s with
      rd := { s.rd with pos := s.rd.pos + 3, cmdstart := s.rd.pos, pstate := .text } }) ∧
    exec .escPitch s = .next { s with
      rd := { s.rd with pos := s.rd.pos + 2, cmdstart := s.rd.pos, pstate := .text } } ∧
    (∀ sel, exec (.escUnrec sel) s = .next { s with
      regs := { s.regs with unrec := s.regs.unrec + 1 }
      rd := { s.rd with pos := s.rd.pos + 2, cmdstart := s.rd.pos, pstate := .text } }) ∧
    (∀ b, exec (.txt b) s = .next { s with rd := { s.rd with pos := s.rd.pos + 1 } })

/-- A whole command in one step is the byte-wise state machine of R162 run over its bytes: the two
granularities R164 allows agree, in every register and every pixel. -/
def Obligations.StreamCommandIsItsBytes : Prop :=
  ∀ (s : State) (i : Instr),
    s.Inv → s.phase = .decode .loop → s.rd.pstate = .text →
    i.isCommand = false → i.wf s.cfg = true → s.StreamAt (encode s.cfg i).stream →
    repeatExec s.decodeInstr i.length s = exec i s

/-- A command cut short by PAYLEN (R178, R179): the decode ends without error, MALFORMED is set, DECPOS is
the index of the command's escape byte, YCUR and UNREC are as before it; the columns received of a
cut-short bit-image command are painted, and every other pixel keeps its value. DECODE's own steps and
the machine's agree on it; their number is the model's (notes/assumptions/8.md). -/
def Obligations.TruncatedCommandIsMalformed : Prop :=
  ∀ (s : State) (i : Instr) (n : Nat),
    s.Inv → s.phase = .decode .loop → s.rd.pstate = .text →
    i.isCommand = false → i.wf s.cfg = true → 0 < n → n < i.length →
    s.StreamAt ((encode s.cfg i).stream.take n) →
    s.rd.pos.toNat + n = s.regs.paylen.toNat →
    ∃ t, repeatExec s.decodeInstr (n + 1) s = .next t ∧
      (s.env.turns = [] → core.run (n + 1) s = .next t) ∧ t.phase = .idle ∧
      t.status = { s.status with done := true, malformed := true } ∧
      t.regs = { s.regs with decpos := s.rd.pos } ∧ t.env = s.env ∧ t.cfg = s.cfg ∧
      t.latch = s.latch ∧ t.fr = s.fr ∧ t.bufs = { s.bufs with bitmap := t.bufs.bitmap } ∧
      (∀ x y, x < s.cfg.w → y < s.cfg.h →
        pixel s.cfg t.bufs.bitmap x y =
          if x < (dataBefore n i).length ∧ s.regs.ycur.toNat ≤ y ∧ y < s.regs.ycur.toNat + 8 then
            ((dataBefore n i).getD x 0).getLsbD (7 - (y - s.regs.ycur.toNat))
          else pixel s.cfg s.bufs.bitmap x y)

/-- DECODE's first step clears BITMAP and the decoder's registers (R160, R161); its last reports PAYLEN in
DECPOS when no command is open (R178, R216). -/
def Obligations.DecodeClearsAndReports : Prop :=
  ∀ (s : State) (stop : Byte) (bufsel kind : Bool),
    (s.phase = .decode .clear →
      exec (.decode stop bufsel kind) s = .next { s with
        phase := .decode .loop
        bufs := { s.bufs with bitmap := [] }
        rd := { pos := 0, pstate := .text, nl := 0, nx := 0, xc := 0, cmdstart := 0 } }) ∧
    (s.phase = .decode .loop → s.regs.paylen.toNat ≤ s.rd.pos.toNat → s.rd.pstate = .text →
      exec (.decode stop bufsel kind) s = .next { s with
        phase := .idle
        status := { s.status with done := true }
        regs := { s.regs with decpos := s.regs.paylen } }) ∧
    (s.phase = .decode .loop → s.regs.paylen.toNat ≤ s.rd.pos.toNat → s.rd.pstate ≠ .text →
      exec (.decode stop bufsel kind) s = .next { s with
        phase := .idle
        status := { s.status with done := true, malformed := true }
        regs := { s.regs with decpos := s.rd.cmdstart } })

/-- Every decode ends, without error, within PAYLEN + 2 steps, whatever the bytes (R160, R178, R179),
having read no channel and written no buffer but BITMAP. -/
def Obligations.DecodeAlwaysEnds : Prop :=
  ∀ (s : State) (stop : Byte) (bufsel kind : Bool),
    s.Inv → s.phase = .idle → s.env.turns = [] → s.regs.paylen.toNat ≤ s.cfg.payloadCap →
    ∃ s1 k t, exec (.decode stop bufsel kind) s = .next s1 ∧ k ≤ s.regs.paylen.toNat + 2 ∧
      core.run k s1 = .next t ∧ t.phase = .idle ∧ t.latch = ⟨stop, bufsel, kind⟩ ∧
      t.status = { s.status with done := true, hostErr := false, err := .noError
                                 malformed := t.status.malformed } ∧
      t.env = s.env ∧ t.cfg = s.cfg ∧ t.fr = s.fr ∧
      t.bufs = { s.bufs with bitmap := t.bufs.bitmap } ∧
      t.regs = { s.regs with ycur := t.regs.ycur, unrec := t.regs.unrec, decpos := t.regs.decpos }

/-- A whole DECODE of a listing (R160 to R178): a payload that is the bytes of well-formed commands, one
after another, decodes without MALFORMED in one step for each and two more; the k-th bit-image command
paints the rows 8k to 8k + 7 and nothing else sets a pixel; YCUR is 8 for each bit-image command, UNREC
one for each unrecognised escape. -/
def Obligations.ListingDecodesToItsPicture : Prop :=
  ∀ (s : State) (stop : Byte) (bufsel kind : Bool) (is : List Instr),
    s.Inv → s.phase = .idle → s.env.turns = [] →
    (∀ i ∈ is, i.isCommand = false ∧ i.wf s.cfg = true) →
    s.regs.paylen.toNat = (assemble s.cfg is).length → s.regs.paylen.toNat ≤ s.cfg.payloadCap →
    (∀ j, j < s.regs.paylen.toNat → s.byteAt .payload j = (assemble s.cfg is).getD j 0) →
    ∃ s1 t, exec (.decode stop bufsel kind) s = .next s1 ∧
      core.run (is.length + 2) s1 = .next t ∧
      (∀ x y, x < s.cfg.w → y < s.cfg.h →
        pixel s.cfg t.bufs.bitmap x y =
          (((strips is).getD (y / 8) []).getD x 0).getLsbD (7 - y % 8)) ∧
      t.phase = .idle ∧ t.cfg = s.cfg ∧ t.env = s.env ∧ t.fr = s.fr ∧
      t.latch = ⟨stop, bufsel, kind⟩ ∧
      t.status = { s.status with done := true, hostErr := false, err := .noError
                                 malformed := false } ∧
      t.regs = { s.regs with ycur := BitVec.ofNat 32 (8 * (strips is).length)
                             unrec := BitVec.ofNat 32 (unrecCount is)
                             decpos := s.regs.paylen } ∧
      t.bufs = { s.bufs with bitmap := t.bufs.bitmap }

/-- Two decodes of the same payload in the same configuration end with the same BITMAP, YCUR, UNREC,
DECPOS and MALFORMED, whatever else the two machines hold: earlier pixels, CHK_OK, the channel (R179,
R180). -/
def Obligations.DecodeDependsOnlyOnThePayload : Prop :=
  ∀ (s s' s1 s1' t : State) (k : Nat) (stop stop' : Byte) (bufsel bufsel' kind kind' : Bool),
    s.Inv → s'.Inv → s.phase = .idle → s'.phase = .idle → s.env.turns = [] → s'.env.turns = [] →
    s.cfg = s'.cfg → s.regs.paylen = s'.regs.paylen → s.bufs.payload = s'.bufs.payload →
    s.regs.paylen.toNat ≤ s.cfg.payloadCap →
    exec (.decode stop bufsel kind) s = .next s1 →
    exec (.decode stop' bufsel' kind') s' = .next s1' →
    core.run k s1 = .next t → t.phase = .idle →
    ∃ t', core.run k s1' = .next t' ∧ t'.phase = .idle ∧ t'.bufs.bitmap = t.bufs.bitmap ∧
      t'.regs.ycur = t.regs.ycur ∧ t'.regs.unrec = t.regs.unrec ∧ t'.regs.decpos = t.regs.decpos ∧
      t'.status.malformed = t.status.malformed

/-! ## The host's port -/

/-- STATUS packs its fields at the places of R25, ERR with the values of R210, with reserved bits 0. -/
def Obligations.StatusWordLayout : Prop :=
  ∀ s : State,
    (s.register 0x04).getLsbD 0 = s.busy ∧ (s.register 0x04).getLsbD 1 = s.status.done ∧
    (s.register 0x04).getLsbD 2 = s.status.hostErr ∧ (s.register 0x04).getLsbD 3 = false ∧
    (s.register 0x04).extractLsb' 4 4 =
      (match s.status.err with
        | .noError => 0
        | .readFail => 1
        | .readTimeout => 2
        | .writeFail => 3
        | .tokenOverflow => 4
        | .lengthFormat => 5
        | .badCommand => 6) ∧
    (s.register 0x04).getLsbD 8 = s.status.chkValid ∧ (s.register 0x04).getLsbD 9 = s.status.chkOk ∧
    (s.register 0x04).getLsbD 10 = s.status.ackValid ∧
    (s.register 0x04).getLsbD 11 = s.status.ackOk ∧
    (s.register 0x04).getLsbD 12 = s.status.payTrunc ∧
    (s.register 0x04).getLsbD 13 = s.status.malformed ∧
    (s.register 0x04).extractLsb' 14 18 = 0

/-- A register read while idle returns the register's value and changes nothing else (R21, R22): the host
registers, the hard-wired CFG registers (R36 to R40), and 0 from CMD and the reserved offsets (R41). -/
def Obligations.IdleRegisterReads : Prop :=
  ∀ (s : State) (off : Nat) (ts : List Turn),
    s.phase = .idle → off % 4 = 0 → off < 0x1000 → s.env.turns = .host (.regRead 32 off) :: ts →
    ∃ v, step s = .next { s with
        env := { s.env with turns := ts, replies := .word v :: s.env.replies } } ∧
      (off = 0x00 → v = 0) ∧ (off = 0x04 → v = s.status.word false) ∧ (off = 0x08 → v = s.regs.blklen) ∧ (off = 0x0C → v = s.regs.txlen) ∧
      (off = 0x10 → v = s.regs.acklen) ∧ (off = 0x14 → v = s.regs.strlen) ∧
      (off = 0x18 → v = s.regs.paylen) ∧
      (off = 0x1C → v.extractLsb' 0 8 = s.regs.sum ∧ v.extractLsb' 8 8 = s.regs.rxchk ∧
        v.extractLsb' 16 16 = 0) ∧
      (off = 0x20 → v = s.regs.ycur) ∧ (off = 0x24 → v = s.regs.unrec) ∧
      (off = 0x28 → v = s.regs.decpos) ∧
      (off = 0x2C → v.extractLsb' 0 16 = BitVec.ofNat 16 s.cfg.w ∧
        v.extractLsb' 16 16 = BitVec.ofNat 16 s.cfg.h) ∧
      (off = 0x30 → v.extractLsb' 0 16 = BitVec.ofNat 16 s.cfg.tokenCap ∧
        v.extractLsb' 16 16 = BitVec.ofNat 16 s.cfg.txCap) ∧
      (off = 0x34 → v = BitVec.ofNat 32 s.cfg.payloadCap) ∧
      (off = 0x38 → v = BitVec.ofNat 32 s.cfg.emptyLimit) ∧
      (off = 0x3C → v.extractLsb' 0 8 = s.cfg.fontSel ∧ v.extractLsb' 8 8 = s.cfg.pitchSel ∧
        v.extractLsb' 16 16 = 0) ∧
      (0x40 ≤ off → v = 0)

/-- A register write while idle, other than one of CMD (R22): BLKLEN, TXLEN and PAYLEN store all 32 bits;
any other is ignored and sets HOST_ERR (R41). -/
def Obligations.IdleRegisterWrites : Prop :=
  ∀ (s : State) (off : Nat) (v : Word) (ts : List Turn),
    s.phase = .idle → off % 4 = 0 → off < 0x1000 → off ≠ 0 →
    s.env.turns = .host (.regWrite 32 off v) :: ts →
    (off = 0x08 → step s = .next { s with
      regs := { s.regs with blklen := v }, env := { s.env with turns := ts } }) ∧
    (off = 0x0C → step s = .next { s with
      regs := { s.regs with txlen := v }, env := { s.env with turns := ts } }) ∧
    (off = 0x18 → step s = .next { s with
      regs := { s.regs with paylen := v }, env := { s.env with turns := ts } }) ∧
    (off ≠ 0x08 → off ≠ 0x0C → off ≠ 0x18 → step s = .next { s with
      status := { s.status with hostErr := true }, env := { s.env with turns := ts } })

/-- Host accesses while an operation runs (R22, R26, R61): every write, one of CMD too, only sets
HOST_ERR; a read changes nothing of the block, and a STATUS read shows BUSY = 1, DONE = 0 and HOST_ERR,
whatever the draw. -/
def Obligations.BusyHostAccesses : Prop :=
  ∀ (s : State) (ts : List Turn), s.phase ≠ .idle →
    (∀ off v, off % 4 = 0 → off < 0x1000 → s.env.turns = .host (.regWrite 32 off v) :: ts →
      step s = .next { s with
        status := { s.status with hostErr := true }, env := { s.env with turns := ts } }) ∧
    (∀ sp i v, s.env.turns = .host (.memWrite sp i v) :: ts →
      step s = .next { s with
        status := { s.status with hostErr := true }, env := { s.env with turns := ts } }) ∧
    (∀ off, off % 4 = 0 → off < 0x1000 → s.env.turns = .host (.regRead 32 off) :: ts →
      ∃ v n, step s = .next { s with
          env := { s.env with turns := ts, replies := .word v :: s.env.replies, draws := n } } ∧
        (off = 0x04 → v.getLsbD 0 = true ∧ v.getLsbD 1 = false ∧ v.getLsbD 2 = s.status.hostErr ∧
          v.getLsbD 3 = false ∧ v.extractLsb' 14 18 = 0)) ∧
    (∀ sp i, s.env.turns = .host (.memRead sp i) :: ts →
      ∃ v n, step s = .next { s with
        env := { s.env with turns := ts, replies := .byte v :: s.env.replies, draws := n } })

/-- Host buffer accesses while idle (R61): inside the buffer a read returns the byte and a write stores it
in TXBUF or PAYLOAD alone; a write to a result buffer, and any access outside, sets HOST_ERR. -/
def Obligations.IdleBufferAccesses : Prop :=
  ∀ (s : State) (sp : Space) (i : Nat) (ts : List Turn), s.Inv → s.phase = .idle →
    (s.env.turns = .host (.memRead sp i) :: ts →
      (i < sp.size s.cfg → step s = .next { s with
        env := { s.env with turns := ts, replies := .byte (s.byteAt sp i) :: s.env.replies } }) ∧
      (sp.size s.cfg ≤ i → step s = .next { s with
        status := { s.status with hostErr := true }
        env := { s.env with turns := ts, replies := .byte 0 :: s.env.replies } })) ∧
    (∀ v, s.env.turns = .host (.memWrite sp i v) :: ts →
      ((sp = .txbuf ∨ sp = .payload) → i < sp.size s.cfg →
        ∃ t, step s = .next t ∧ t.byteAt sp i = v ∧
          (∀ sp' j, (sp', j) ≠ (sp, i) → t.byteAt sp' j = s.byteAt sp' j) ∧
          t = { s with bufs := t.bufs, env := { s.env with turns := ts } }) ∧
      (¬ ((sp = .txbuf ∨ sp = .payload) ∧ i < sp.size s.cfg) → step s = .next { s with
        status := { s.status with hostErr := true }, env := { s.env with turns := ts } }))

/-- A register access of another width, at an offset that is not a multiple of 4, or beyond 0xFFF, is
refused (R22). -/
def Obligations.ForeignRegisterAccessIsRefused : Prop :=
  ∀ (s : State) (width off : Nat) (v : Word) (ts : List Turn),
    width ≠ 32 ∨ off % 4 ≠ 0 ∨ 0x1000 ≤ off →
    (s.env.turns = .host (.regRead width off) :: ts → step s = .refused .noSuchAccess) ∧
    (s.env.turns = .host (.regWrite width off v) :: ts → step s = .refused .noSuchAccess)

/-! ## The hand-off -/

/-- The sink's output is its header and then every BITMAP byte in index order, so that each pixel is the
bit of the file at its place (R202, R64). -/
def Obligations.SinkBodyIsTheBitmap : Prop :=
  ∀ (s : State) (creator : List Byte), s.cfg.Legal →
    ∃ body, sinkOutput creator s = sinkHeader creator s.cfg ++ body ∧
      body.length = s.cfg.h * s.cfg.w / 8 ∧
      (∀ i, i < body.length → body.getD i 0 = s.byteAt .bitmap i) ∧
      (∀ x y, x < s.cfg.w → y < s.cfg.h →
        (body.getD (y * (s.cfg.w / 8) + x / 8) 0).getLsbD (7 - x % 8) =
          pixel s.cfg s.bufs.bitmap x y)

/-! ## Reset -/

/-- The reset step, from any state: every register, flag, buffer and internal register of R242 at its
value; the configuration, the channel and the host are not reset (R240, R241). -/
def Obligations.ResetStepRestoresEverything : Prop :=
  ∀ (s : State) (ts : List Turn), s.env.turns = .reset :: ts →
    ∃ t, step s = .next t ∧ t.cfg = s.cfg ∧ t.env = { s.env with turns := ts } ∧
      t.phase = .idle ∧ t.busy = false ∧
      t.status = ⟨false, false, .noError, false, false, false, false, false, false⟩ ∧
      t.status.word t.busy = 0 ∧
      t.regs = ⟨0, 0, 0, 0, 0, 0, 0, 0, 0, 0⟩ ∧ (∀ sp i, t.byteAt sp i = 0) ∧
      t.latch = ⟨0, false, false⟩ ∧ t.fr = ⟨0, false, 0, 0, 0⟩ ∧ t.rd = ⟨0, .text, 0, 0, 0, 0⟩

/-! ## The whole machine -/

/-- The invariant holds right after reset, in every legal configuration. -/
def Obligations.InvariantHoldsAtReset : Prop :=
  (∀ c : Config, c.Legal → (State.resetWith c).Inv) ∧ State.reset.Inv

/-- Every step keeps the invariant (R23, R25, R26, R29 to R31, R33, R62). -/
def Obligations.EveryStepKeepsTheInvariant : Prop :=
  ∀ s t : State, s.Inv → step s = .next t → t.Inv

/-- From a state of the invariant no run faults: the block's out-of-range buffer access "does not occur"
(R62). -/
def Obligations.NoRunEverFaults : Prop := ∀ s : State, s.Inv → s.NeverFaults

/-- The decoder's invariant holds right after reset, in every legal configuration. -/
def Obligations.DecodeInvariantHoldsAtReset : Prop :=
  (∀ c : Config, c.Legal → (State.resetWith c).DecodeInv) ∧ State.reset.DecodeInv

/-- Every step keeps the decoder's invariant: CMDSTART is the escape of the current command, and YCUR and
UNREC are bounded by the bytes consumed, so that neither can wrap (R33, R34, R44). -/
def Obligations.EveryStepKeepsTheDecodeInvariant : Prop :=
  ∀ s t : State, s.Inv → s.DecodeInv → step s = .next t → t.DecodeInv

/-- While a decode runs, YCUR is at most 8 * floor(PAYLEN / 5) and UNREC at most PAYLEN / 2 (R33, R34). -/
def Obligations.DecodeCountersAreBounded : Prop :=
  ∀ s : State, s.Inv → s.DecodeInv → s.phase = .decode .loop →
    s.regs.ycur.toNat ≤ 8 * (s.regs.paylen.toNat / 5) ∧
    s.regs.unrec.toNat ≤ s.regs.paylen.toNat / 2 ∧ s.regs.ycur.toNat < 2 ^ 30

/-- No step changes the configuration (R8). -/
def Obligations.NoStepChangesTheConfiguration : Prop :=
  ∀ s t : State, step s = .next t → t.cfg = s.cfg

/-- The block leaves idle only on a CMD write that is not bad (R230). -/
def Obligations.OnlyAnAcceptedCommandLeavesIdle : Prop :=
  ∀ s t : State, s.phase = .idle → step s = .next t → t.phase ≠ .idle →
    ∃ w ts, s.env.turns = .host (.regWrite 32 0 w) :: ts ∧ ¬ BadWord w s

/-- While an operation runs, no step but a reset changes TXBUF, TXLEN or the latched fields, no step of a
READ_BLOCK but a reset changes BLKLEN, and no step of a decode but a reset changes PAYLOAD or PAYLEN
(R73 (a), R76, R90). -/
def Obligations.RunningOperationsKeepTheirInputs : Prop :=
  ∀ s t : State, s.phase ≠ .idle → s.env.turns.head? ≠ some .reset → step s = .next t →
    t.bufs.txbuf = s.bufs.txbuf ∧ t.regs.txlen = s.regs.txlen ∧ t.latch = s.latch ∧
    (∀ p, s.phase = .readBlock p → t.regs.blklen = s.regs.blklen) ∧
    (s.phase.decodes = true → t.bufs.payload = s.bufs.payload ∧ t.regs.paylen = s.regs.paylen)

/-- BITMAP changes only in a running decode or by a reset (R60, R200). -/
def Obligations.OnlyDecodeWritesTheBitmap : Prop :=
  ∀ s t : State, s.phase.decodes = false → s.env.turns.head? ≠ some .reset → step s = .next t →
    t.bufs.bitmap = s.bufs.bitmap

/-- A step that ends an operation, other than a reset, sets DONE = 1 with BUSY = 0 (R25, R214, R216). -/
def Obligations.EndedOperationIsDone : Prop :=
  ∀ s t : State, s.busy = true → s.env.turns.head? ≠ some .reset → step s = .next t →
    t.busy = false → t.status.done = true

/-- A step makes at most one channel access (R14, R70, R74): it takes at most the next read answer, or
the next write answer with the one string it writes, never both. -/
def Obligations.AtMostOneChannelAccessPerStep : Prop :=
  ∀ s t : State, step s = .next t →
    (t.env.reads = s.env.reads ∧ t.env.writes = s.env.writes ∧ t.env.sent = s.env.sent) ∨
    (∃ a, s.env.reads = a :: t.env.reads ∧ t.env.writes = s.env.writes ∧
      t.env.sent = s.env.sent) ∨
    (∃ a, s.env.writes = a :: t.env.writes ∧ t.env.reads = s.env.reads ∧
      t.env.sent = s.commandFrame :: s.env.sent)
end

