-- ==== Sys2Proof/Laws/Memory.lean ====
section
/-! SUPPORT. The laws of one byte buffer: a read after a write, the canonical form kept by every
operation, and the bound on the listed indices. -/

namespace Sys2Proof.Machine

@[simp] theorem Memory.read_nil (a : Nat) : Memory.read [] a = 0 := rfl

@[simp] theorem Memory.wf_nil : Memory.wf [] = true := rfl

@[simp] theorem Memory.within_nil (n : Nat) : Memory.within n [] = true := rfl

/-- The canonical form is the form above any index below the first entry. -/
theorem Memory.wf_of_wfAbove {a : Nat} {m : Memory} (h : Memory.wfAbove a m = true) :
    Memory.wf m = true := by
  cases m with
  | nil => rfl
  | cons p m => simp only [Memory.wfAbove, Bool.and_eq_true, decide_eq_true_eq] at h; simp [Memory.wf, h]

/-- An index at or below the bound reads as unlisted. -/
theorem Memory.read_of_wfAbove {a b : Nat} {m : Memory} (h : Memory.wfAbove a m = true)
    (hb : b ≤ a) : Memory.read m b = 0 := by
  induction m generalizing a with
  | nil => rfl
  | cons p m ih =>
    obtain ⟨c, v⟩ := p
    simp only [Memory.wfAbove, Bool.and_eq_true, decide_eq_true_eq] at h
    rw [Memory.read, if_neg (by omega)]
    exact ih h.2 (by omega)

theorem Memory.wfAbove_mono {a b : Nat} {m : Memory} (h : Memory.wfAbove a m = true)
    (hb : b ≤ a) : Memory.wfAbove b m = true := by
  cases m with
  | nil => rfl
  | cons p m =>
    simp only [Memory.wfAbove, Bool.and_eq_true, decide_eq_true_eq] at h ⊢
    exact ⟨⟨by omega, h.1.2⟩, h.2⟩

/-- A write above the bound keeps the form above it. -/
theorem Memory.wfAbove_write {c : Nat} {m : Memory} (h : Memory.wfAbove c m = true) {a : Nat}
    (ha : c < a) (v : Byte) : Memory.wfAbove c (Memory.write m a v) = true := by
  induction m generalizing c with
  | nil =>
    by_cases hv : v = unlistedByte
    · simp [Memory.write, hv, Memory.wfAbove]
    · simp [Memory.write, hv, Memory.wfAbove, ha]
  | cons p m ih =>
    obtain ⟨b, u⟩ := p
    simp only [Memory.wfAbove, Bool.and_eq_true, decide_eq_true_eq] at h
    by_cases hab : a < b
    · by_cases hv : v = unlistedByte
      · simp [Memory.write, hab, hv, Memory.wfAbove, h]
      · simp [Memory.write, hab, hv, Memory.wfAbove, h, ha]
    · by_cases he : a = b
      · subst he
        by_cases hv : v = unlistedByte
        · simp [Memory.write, hv, Memory.wfAbove_mono h.2 h.1.1.le]
        · simp [Memory.write, hv, Memory.wfAbove, h]
      · simp [Memory.write, hab, he, Memory.wfAbove, h, ih h.2 (by omega)]

/-- A write keeps the canonical form. -/
theorem Memory.wf_write {m : Memory} (h : Memory.wf m = true) (a : Nat) (v : Byte) :
    Memory.wf (Memory.write m a v) = true := by
  cases m with
  | nil => by_cases hv : v = unlistedByte <;> simp [Memory.write, hv, Memory.wf, Memory.wfAbove]
  | cons p m =>
    obtain ⟨b, u⟩ := p
    simp only [Memory.wf, Bool.and_eq_true, decide_eq_true_eq] at h
    by_cases hab : a < b
    · by_cases hv : v = unlistedByte
      · simp [Memory.write, hab, hv, Memory.wf, h]
      · simp [Memory.write, hab, hv, Memory.wf, Memory.wfAbove, h]
    · by_cases he : a = b
      · subst he
        by_cases hv : v = unlistedByte
        · simp [Memory.write, hv, Memory.wf_of_wfAbove h.2]
        · simp [Memory.write, hv, Memory.wf, h]
      · simp [Memory.write, hab, he, Memory.wf, h, Memory.wfAbove_write h.2 (show b < a by omega)]

/-- Storing bytes one after another keeps the canonical form. -/
theorem Memory.wf_store {m : Memory} (h : Memory.wf m = true) (a : Nat) (vs : List Byte) :
    Memory.wf (Memory.store m a vs) = true := by
  induction vs generalizing m a with
  | nil => exact h
  | cons v vs ih => exact ih (Memory.wf_write h a v) (a + 1)

/-- A read of another index is as before, whatever the list. -/
theorem Memory.read_write_other (m : Memory) {a b : Nat} (h : b ≠ a) (v : Byte) :
    Memory.read (Memory.write m a v) b = Memory.read m b := by
  induction m with
  | nil =>
    by_cases hv : v = unlistedByte
    · simp [Memory.write, hv]
    · simp [Memory.write, hv, Memory.read, h]
  | cons p m ih =>
    obtain ⟨c, u⟩ := p
    by_cases hac : a < c
    · by_cases hv : v = unlistedByte <;> simp [Memory.write, hac, hv, Memory.read, h]
    · by_cases he : a = c
      · subst he
        by_cases hv : v = unlistedByte <;> simp [Memory.write, hv, Memory.read, h]
      · simp [Memory.write, hac, he, Memory.read, ih]

/-- A read of the index written gives the byte written, above a bound. -/
theorem Memory.read_write_same_above {c : Nat} {m : Memory} (h : Memory.wfAbove c m = true) (a : Nat)
    (v : Byte) : Memory.read (Memory.write m a v) a = v := by
  induction m generalizing c with
  | nil =>
    by_cases hv : v = unlistedByte
    · simp [Memory.write, hv, unlistedByte]
    · simp [Memory.write, hv, Memory.read]
  | cons p m ih =>
    obtain ⟨b, u⟩ := p
    simp only [Memory.wfAbove, Bool.and_eq_true, decide_eq_true_eq] at h
    by_cases hab : a < b
    · by_cases hv : v = unlistedByte
      · have hne : a ≠ b := by omega
        simp [Memory.write, hab, hv, Memory.read, hne, Memory.read_of_wfAbove h.2 hab.le, unlistedByte]
      · simp [Memory.write, hab, hv, Memory.read]
    · by_cases he : a = b
      · subst he
        by_cases hv : v = unlistedByte
        · simp [Memory.write, hv, Memory.read_of_wfAbove h.2 le_rfl, unlistedByte]
        · simp [Memory.write, hv, Memory.read]
      · simp [Memory.write, hab, he, Memory.read, ih h.2]

/-- In canonical form, a read of the index written gives the byte written. -/
theorem Memory.read_write_same {m : Memory} (h : Memory.wf m = true) (a : Nat) (v : Byte) :
    Memory.read (Memory.write m a v) a = v := by
  cases m with
  | nil =>
    by_cases hv : v = unlistedByte
    · simp [Memory.write, hv, unlistedByte]
    · simp [Memory.write, hv, Memory.read]
  | cons p m =>
    obtain ⟨b, u⟩ := p
    simp only [Memory.wf, Bool.and_eq_true, decide_eq_true_eq] at h
    by_cases hab : a < b
    · exact Memory.read_write_same_above (c := b - 1)
        (by simp only [Memory.wfAbove, Bool.and_eq_true, decide_eq_true_eq]
            exact ⟨⟨by omega, h.1⟩, h.2⟩) a v
    · by_cases he : a = b
      · subst he
        by_cases hv : v = unlistedByte
        · simp [Memory.write, hv, Memory.read_of_wfAbove h.2 le_rfl, unlistedByte]
        · simp [Memory.write, hv, Memory.read]
      · simp [Memory.write, hab, he, Memory.read, Memory.read_write_same_above h.2]

/-- A write inside a buffer lists no index outside it. -/
theorem Memory.within_write {n : Nat} {m : Memory} (h : Memory.within n m = true) {a : Nat}
    (ha : a < n) (v : Byte) : Memory.within n (Memory.write m a v) = true := by
  induction m with
  | nil => by_cases hv : v = unlistedByte <;> simp [Memory.write, hv, Memory.within, ha]
  | cons p m ih =>
    obtain ⟨b, u⟩ := p
    simp only [Memory.within, List.all_cons, Bool.and_eq_true, decide_eq_true_eq] at h ih
    by_cases hab : a < b
    · by_cases hv : v = unlistedByte <;> simp [Memory.write, hab, hv, Memory.within, h, ha]
    · by_cases he : a = b
      · subst he
        by_cases hv : v = unlistedByte <;> simp [Memory.write, hv, Memory.within, ha] <;> simpa using h.2
      · simp only [Memory.write, if_neg hab, if_neg he, Memory.within, List.all_cons, Bool.and_eq_true,
          decide_eq_true_eq]
        exact ⟨h.1, ih h.2⟩

end Sys2Proof.Machine
end

