-- ==== Sys2Proof/Laws/State.lean ====
section
/-! SUPPORT. What each named update of the state does to each of its components, one lemma each, so that
no proof unfolds a record update. -/

namespace Sys2Proof.Machine

variable (s : State)

/-! ### setBuf -/

@[simp] theorem State.setBuf_cfg (sp : Space) (m : Memory) : (s.setBuf sp m).cfg = s.cfg := rfl
@[simp] theorem State.setBuf_phase (sp : Space) (m : Memory) :
    (s.setBuf sp m).phase =
      s.phase := rfl
@[simp] theorem State.setBuf_status (sp : Space) (m : Memory) :
    (s.setBuf sp m).status =
      s.status := rfl
@[simp] theorem State.setBuf_regs (sp : Space) (m : Memory) : (s.setBuf sp m).regs = s.regs := rfl
@[simp] theorem State.setBuf_bufs (sp : Space) (m : Memory) :
    (s.setBuf sp m).bufs =
      s.bufs.set sp m := rfl
@[simp] theorem State.setBuf_latch (sp : Space) (m : Memory) :
    (s.setBuf sp m).latch =
      s.latch := rfl
@[simp] theorem State.setBuf_fr (sp : Space) (m : Memory) : (s.setBuf sp m).fr = s.fr := rfl
@[simp] theorem State.setBuf_rd (sp : Space) (m : Memory) : (s.setBuf sp m).rd = s.rd := rfl
@[simp] theorem State.setBuf_env (sp : Space) (m : Memory) : (s.setBuf sp m).env = s.env := rfl

/-! ### accept -/

@[simp] theorem State.accept_cfg (l : Latch) (p : Phase) : (s.accept l p).cfg = s.cfg := rfl
@[simp] theorem State.accept_phase (l : Latch) (p : Phase) : (s.accept l p).phase = p := rfl
@[simp] theorem State.accept_status (l : Latch) (p : Phase) :
    (s.accept l p).status =
      { s.status with done := false, hostErr := false, err := .noError } := rfl
@[simp] theorem State.accept_regs (l : Latch) (p : Phase) : (s.accept l p).regs = s.regs := rfl
@[simp] theorem State.accept_bufs (l : Latch) (p : Phase) : (s.accept l p).bufs = s.bufs := rfl
@[simp] theorem State.accept_latch (l : Latch) (p : Phase) : (s.accept l p).latch = l := rfl
@[simp] theorem State.accept_fr (l : Latch) (p : Phase) : (s.accept l p).fr = s.fr := rfl
@[simp] theorem State.accept_rd (l : Latch) (p : Phase) : (s.accept l p).rd = s.rd := rfl
@[simp] theorem State.accept_env (l : Latch) (p : Phase) : (s.accept l p).env = s.env := rfl

/-! ### reject -/

@[simp] theorem State.reject_cfg : s.reject.cfg = s.cfg := rfl
@[simp] theorem State.reject_phase : s.reject.phase = s.phase := rfl
@[simp] theorem State.reject_status :
    s.reject.status =
      { s.status with done := true, hostErr := false, err := .badCommand } := rfl
@[simp] theorem State.reject_regs : s.reject.regs = s.regs := rfl
@[simp] theorem State.reject_bufs : s.reject.bufs = s.bufs := rfl
@[simp] theorem State.reject_latch : s.reject.latch = s.latch := rfl
@[simp] theorem State.reject_fr : s.reject.fr = s.fr := rfl
@[simp] theorem State.reject_rd : s.reject.rd = s.rd := rfl
@[simp] theorem State.reject_env : s.reject.env = s.env := rfl

/-! ### ignoreAccess -/

@[simp] theorem State.ignoreAccess_cfg : s.ignoreAccess.cfg = s.cfg := rfl
@[simp] theorem State.ignoreAccess_phase : s.ignoreAccess.phase = s.phase := rfl
@[simp] theorem State.ignoreAccess_status :
    s.ignoreAccess.status =
      { s.status with hostErr := true } := rfl
@[simp] theorem State.ignoreAccess_regs : s.ignoreAccess.regs = s.regs := rfl
@[simp] theorem State.ignoreAccess_bufs : s.ignoreAccess.bufs = s.bufs := rfl
@[simp] theorem State.ignoreAccess_latch : s.ignoreAccess.latch = s.latch := rfl
@[simp] theorem State.ignoreAccess_fr : s.ignoreAccess.fr = s.fr := rfl
@[simp] theorem State.ignoreAccess_rd : s.ignoreAccess.rd = s.rd := rfl
@[simp] theorem State.ignoreAccess_env : s.ignoreAccess.env = s.env := rfl

/-! ### raiseErr -/

@[simp] theorem State.raiseErr_cfg (e : ErrCode) : (s.raiseErr e).cfg = s.cfg := rfl
@[simp] theorem State.raiseErr_phase (e : ErrCode) : (s.raiseErr e).phase = .idle := rfl
@[simp] theorem State.raiseErr_status (e : ErrCode) :
    (s.raiseErr e).status =
      { s.status with done := true, err := e } := rfl
@[simp] theorem State.raiseErr_regs (e : ErrCode) : (s.raiseErr e).regs = s.regs := rfl
@[simp] theorem State.raiseErr_bufs (e : ErrCode) : (s.raiseErr e).bufs = s.bufs := rfl
@[simp] theorem State.raiseErr_latch (e : ErrCode) : (s.raiseErr e).latch = s.latch := rfl
@[simp] theorem State.raiseErr_fr (e : ErrCode) : (s.raiseErr e).fr = s.fr := rfl
@[simp] theorem State.raiseErr_rd (e : ErrCode) : (s.raiseErr e).rd = s.rd := rfl
@[simp] theorem State.raiseErr_env (e : ErrCode) : (s.raiseErr e).env = s.env := rfl

/-! ### finish -/

@[simp] theorem State.finish_cfg : s.finish.cfg = s.cfg := rfl
@[simp] theorem State.finish_phase : s.finish.phase = .idle := rfl
@[simp] theorem State.finish_status : s.finish.status = { s.status with done := true } := rfl
@[simp] theorem State.finish_regs : s.finish.regs = s.regs := rfl
@[simp] theorem State.finish_bufs : s.finish.bufs = s.bufs := rfl
@[simp] theorem State.finish_latch : s.finish.latch = s.latch := rfl
@[simp] theorem State.finish_fr : s.finish.fr = s.fr := rfl
@[simp] theorem State.finish_rd : s.finish.rd = s.rd := rfl
@[simp] theorem State.finish_env : s.finish.env = s.env := rfl

/-! ### resetBlock -/

@[simp] theorem State.resetBlock_cfg : s.resetBlock.cfg = s.cfg := rfl
@[simp] theorem State.resetBlock_phase : s.resetBlock.phase = .idle := rfl
@[simp] theorem State.resetBlock_status :
    s.resetBlock.status =
      (State.resetWith s.cfg).status := rfl
@[simp] theorem State.resetBlock_regs : s.resetBlock.regs = (State.resetWith s.cfg).regs := rfl
@[simp] theorem State.resetBlock_bufs : s.resetBlock.bufs = ⟨[], [], [], [], []⟩ := rfl
@[simp] theorem State.resetBlock_latch : s.resetBlock.latch = ⟨0, false, false⟩ := rfl
@[simp] theorem State.resetBlock_fr : s.resetBlock.fr = ⟨0, false, 0, 0, 0⟩ := rfl
@[simp] theorem State.resetBlock_rd : s.resetBlock.rd = ⟨0, .text, 0, 0, 0, 0⟩ := rfl
@[simp] theorem State.resetBlock_env : s.resetBlock.env = s.env := rfl

/-! ### setTurns -/

@[simp] theorem State.setTurns_cfg (ts : List Turn) : (s.setTurns ts).cfg = s.cfg := rfl
@[simp] theorem State.setTurns_phase (ts : List Turn) : (s.setTurns ts).phase = s.phase := rfl
@[simp] theorem State.setTurns_status (ts : List Turn) : (s.setTurns ts).status = s.status := rfl
@[simp] theorem State.setTurns_regs (ts : List Turn) : (s.setTurns ts).regs = s.regs := rfl
@[simp] theorem State.setTurns_bufs (ts : List Turn) : (s.setTurns ts).bufs = s.bufs := rfl
@[simp] theorem State.setTurns_latch (ts : List Turn) : (s.setTurns ts).latch = s.latch := rfl
@[simp] theorem State.setTurns_fr (ts : List Turn) : (s.setTurns ts).fr = s.fr := rfl
@[simp] theorem State.setTurns_rd (ts : List Turn) : (s.setTurns ts).rd = s.rd := rfl
@[simp] theorem State.setTurns_env (ts : List Turn) :
    (s.setTurns ts).env =
      { s.env with turns := ts } := rfl

/-! ### setReads -/

@[simp] theorem State.setReads_cfg (rs : List ReadAnswer) : (s.setReads rs).cfg = s.cfg := rfl
@[simp] theorem State.setReads_phase (rs : List ReadAnswer) : (s.setReads rs).phase = s.phase := rfl
@[simp] theorem State.setReads_status (rs : List ReadAnswer) :
    (s.setReads rs).status =
      s.status := rfl
@[simp] theorem State.setReads_regs (rs : List ReadAnswer) : (s.setReads rs).regs = s.regs := rfl
@[simp] theorem State.setReads_bufs (rs : List ReadAnswer) : (s.setReads rs).bufs = s.bufs := rfl
@[simp] theorem State.setReads_latch (rs : List ReadAnswer) : (s.setReads rs).latch = s.latch := rfl
@[simp] theorem State.setReads_fr (rs : List ReadAnswer) : (s.setReads rs).fr = s.fr := rfl
@[simp] theorem State.setReads_rd (rs : List ReadAnswer) : (s.setReads rs).rd = s.rd := rfl
@[simp] theorem State.setReads_env (rs : List ReadAnswer) :
    (s.setReads rs).env =
      { s.env with reads := rs } := rfl

/-! ### setEmptycnt -/

@[simp] theorem State.setEmptycnt_cfg (n : Word) : (s.setEmptycnt n).cfg = s.cfg := rfl
@[simp] theorem State.setEmptycnt_phase (n : Word) : (s.setEmptycnt n).phase = s.phase := rfl
@[simp] theorem State.setEmptycnt_status (n : Word) : (s.setEmptycnt n).status = s.status := rfl
@[simp] theorem State.setEmptycnt_regs (n : Word) : (s.setEmptycnt n).regs = s.regs := rfl
@[simp] theorem State.setEmptycnt_bufs (n : Word) : (s.setEmptycnt n).bufs = s.bufs := rfl
@[simp] theorem State.setEmptycnt_latch (n : Word) : (s.setEmptycnt n).latch = s.latch := rfl
@[simp] theorem State.setEmptycnt_fr (n : Word) :
    (s.setEmptycnt n).fr =
      { s.fr with emptycnt := n } := rfl
@[simp] theorem State.setEmptycnt_rd (n : Word) : (s.setEmptycnt n).rd = s.rd := rfl
@[simp] theorem State.setEmptycnt_env (n : Word) : (s.setEmptycnt n).env = s.env := rfl

/-! ### enter -/

@[simp] theorem State.enter_cfg (p : Phase) : (s.enter p).cfg = s.cfg := rfl
@[simp] theorem State.enter_phase (p : Phase) : (s.enter p).phase = p := rfl
@[simp] theorem State.enter_status (p : Phase) : (s.enter p).status = s.status := rfl
@[simp] theorem State.enter_regs (p : Phase) : (s.enter p).regs = s.regs := rfl
@[simp] theorem State.enter_bufs (p : Phase) : (s.enter p).bufs = s.bufs := rfl
@[simp] theorem State.enter_latch (p : Phase) : (s.enter p).latch = s.latch := rfl
@[simp] theorem State.enter_fr (p : Phase) : (s.enter p).fr = s.fr := rfl
@[simp] theorem State.enter_rd (p : Phase) : (s.enter p).rd = s.rd := rfl
@[simp] theorem State.enter_env (p : Phase) : (s.enter p).env = s.env := rfl

/-! ### clearBlockResults -/

@[simp] theorem State.clearBlockResults_cfg : s.clearBlockResults.cfg = s.cfg := rfl
@[simp] theorem State.clearBlockResults_phase : s.clearBlockResults.phase = s.phase := rfl
@[simp] theorem State.clearBlockResults_status :
    s.clearBlockResults.status =
      { s.status with chkValid := false, chkOk := false, payTrunc := false } := rfl
@[simp] theorem State.clearBlockResults_regs :
    s.clearBlockResults.regs =
      { s.regs with sum := 0, rxchk := 0 } := rfl
@[simp] theorem State.clearBlockResults_bufs : s.clearBlockResults.bufs = s.bufs := rfl
@[simp] theorem State.clearBlockResults_latch : s.clearBlockResults.latch = s.latch := rfl
@[simp] theorem State.clearBlockResults_fr : s.clearBlockResults.fr = s.fr := rfl
@[simp] theorem State.clearBlockResults_rd : s.clearBlockResults.rd = s.rd := rfl
@[simp] theorem State.clearBlockResults_env : s.clearBlockResults.env = s.env := rfl

/-! ### clearTransactResults -/

@[simp] theorem State.clearTransactResults_cfg : s.clearTransactResults.cfg = s.cfg := rfl
@[simp] theorem State.clearTransactResults_phase : s.clearTransactResults.phase = s.phase := rfl
@[simp] theorem State.clearTransactResults_status :
    s.clearTransactResults.status =
      { s.status with chkValid := false, chkOk := false, payTrunc := false, ackValid := false, ackOk := false } := rfl
@[simp] theorem State.clearTransactResults_regs :
    s.clearTransactResults.regs =
      { s.regs with sum := 0, rxchk := 0, strlen := 0 } := rfl
@[simp] theorem State.clearTransactResults_bufs : s.clearTransactResults.bufs = s.bufs := rfl
@[simp] theorem State.clearTransactResults_latch : s.clearTransactResults.latch = s.latch := rfl
@[simp] theorem State.clearTransactResults_fr : s.clearTransactResults.fr = s.fr := rfl
@[simp] theorem State.clearTransactResults_rd : s.clearTransactResults.rd = s.rd := rfl
@[simp] theorem State.clearTransactResults_env : s.clearTransactResults.env = s.env := rfl

/-! ### clearDecodeResults -/

@[simp] theorem State.clearDecodeResults_cfg : s.clearDecodeResults.cfg = s.cfg := rfl
@[simp] theorem State.clearDecodeResults_phase : s.clearDecodeResults.phase = s.phase := rfl
@[simp] theorem State.clearDecodeResults_status :
    s.clearDecodeResults.status =
      { s.status with malformed := false } := rfl
@[simp] theorem State.clearDecodeResults_regs :
    s.clearDecodeResults.regs =
      { s.regs with ycur := 0, unrec := 0 } := rfl
@[simp] theorem State.clearDecodeResults_bufs : s.clearDecodeResults.bufs = s.bufs := rfl
@[simp] theorem State.clearDecodeResults_latch : s.clearDecodeResults.latch = s.latch := rfl
@[simp] theorem State.clearDecodeResults_fr : s.clearDecodeResults.fr = s.fr := rfl
@[simp] theorem State.clearDecodeResults_rd : s.clearDecodeResults.rd = s.rd := rfl
@[simp] theorem State.clearDecodeResults_env : s.clearDecodeResults.env = s.env := rfl

/-! ### recordChecksum -/

@[simp] theorem State.recordChecksum_cfg (c : Byte) : (s.recordChecksum c).cfg = s.cfg := rfl
@[simp] theorem State.recordChecksum_phase (c : Byte) : (s.recordChecksum c).phase = s.phase := rfl
@[simp] theorem State.recordChecksum_status (c : Byte) :
    (s.recordChecksum c).status =
      { s.status with chkValid := true, chkOk := decide (s.fr.sumacc = c) } := rfl
@[simp] theorem State.recordChecksum_regs (c : Byte) :
    (s.recordChecksum c).regs =
      { s.regs with sum := s.fr.sumacc, rxchk := c } := rfl
@[simp] theorem State.recordChecksum_bufs (c : Byte) : (s.recordChecksum c).bufs = s.bufs := rfl
@[simp] theorem State.recordChecksum_latch (c : Byte) : (s.recordChecksum c).latch = s.latch := rfl
@[simp] theorem State.recordChecksum_fr (c : Byte) : (s.recordChecksum c).fr = s.fr := rfl
@[simp] theorem State.recordChecksum_rd (c : Byte) : (s.recordChecksum c).rd = s.rd := rfl
@[simp] theorem State.recordChecksum_env (c : Byte) : (s.recordChecksum c).env = s.env := rfl

/-! ### startBlock -/

@[simp] theorem State.startBlock_cfg : s.startBlock.cfg = s.cfg := rfl
@[simp] theorem State.startBlock_phase : s.startBlock.phase = s.phase := rfl
@[simp] theorem State.startBlock_status :
    s.startBlock.status =
      { s.status with payTrunc := s.status.payTrunc || decide (s.cfg.payloadCap < s.regs.blklen.toNat) } := rfl
@[simp] theorem State.startBlock_regs : s.startBlock.regs = { s.regs with paylen := 0 } := rfl
@[simp] theorem State.startBlock_bufs : s.startBlock.bufs = s.bufs := rfl
@[simp] theorem State.startBlock_latch : s.startBlock.latch = s.latch := rfl
@[simp] theorem State.startBlock_fr :
    s.startBlock.fr =
      { s.fr with emptycnt := 0, remain := s.regs.blklen, idx := 0, sumacc := 0 } := rfl
@[simp] theorem State.startBlock_rd : s.startBlock.rd = s.rd := rfl
@[simp] theorem State.startBlock_env : s.startBlock.env = s.env := rfl

/-! ### recordWrite -/

@[simp] theorem State.recordWrite_cfg (frame : List Byte) (ws : List WriteAnswer) :
    (s.recordWrite frame ws).cfg =
      s.cfg := rfl
@[simp] theorem State.recordWrite_phase (frame : List Byte) (ws : List WriteAnswer) :
    (s.recordWrite frame ws).phase =
      s.phase := rfl
@[simp] theorem State.recordWrite_status (frame : List Byte) (ws : List WriteAnswer) :
    (s.recordWrite frame ws).status =
      s.status := rfl
@[simp] theorem State.recordWrite_regs (frame : List Byte) (ws : List WriteAnswer) :
    (s.recordWrite frame ws).regs =
      s.regs := rfl
@[simp] theorem State.recordWrite_bufs (frame : List Byte) (ws : List WriteAnswer) :
    (s.recordWrite frame ws).bufs =
      s.bufs := rfl
@[simp] theorem State.recordWrite_latch (frame : List Byte) (ws : List WriteAnswer) :
    (s.recordWrite frame ws).latch =
      s.latch := rfl
@[simp] theorem State.recordWrite_fr (frame : List Byte) (ws : List WriteAnswer) :
    (s.recordWrite frame ws).fr =
      s.fr := rfl
@[simp] theorem State.recordWrite_rd (frame : List Byte) (ws : List WriteAnswer) :
    (s.recordWrite frame ws).rd =
      s.rd := rfl
@[simp] theorem State.recordWrite_env (frame : List Byte) (ws : List WriteAnswer) :
    (s.recordWrite frame ws).env =
      { s.env with writes := ws, sent := frame :: s.env.sent } := rfl

/-! ### setOvf -/

@[simp] theorem State.setOvf_cfg : s.setOvf.cfg = s.cfg := rfl
@[simp] theorem State.setOvf_phase : s.setOvf.phase = s.phase := rfl
@[simp] theorem State.setOvf_status : s.setOvf.status = s.status := rfl
@[simp] theorem State.setOvf_regs : s.setOvf.regs = s.regs := rfl
@[simp] theorem State.setOvf_bufs : s.setOvf.bufs = s.bufs := rfl
@[simp] theorem State.setOvf_latch : s.setOvf.latch = s.latch := rfl
@[simp] theorem State.setOvf_fr : s.setOvf.fr = { s.fr with ovf := true } := rfl
@[simp] theorem State.setOvf_rd : s.setOvf.rd = s.rd := rfl
@[simp] theorem State.setOvf_env : s.setOvf.env = s.env := rfl

/-! ### countByte -/

@[simp] theorem State.countByte_cfg (b : Byte) : (s.countByte b).cfg = s.cfg := rfl
@[simp] theorem State.countByte_phase (b : Byte) : (s.countByte b).phase = s.phase := rfl
@[simp] theorem State.countByte_status (b : Byte) : (s.countByte b).status = s.status := rfl
@[simp] theorem State.countByte_regs (b : Byte) : (s.countByte b).regs = s.regs := rfl
@[simp] theorem State.countByte_bufs (b : Byte) : (s.countByte b).bufs = s.bufs := rfl
@[simp] theorem State.countByte_latch (b : Byte) : (s.countByte b).latch = s.latch := rfl
@[simp] theorem State.countByte_fr (b : Byte) :
    (s.countByte b).fr =
      { s.fr with sumacc := s.fr.sumacc + b, idx := s.fr.idx + 1, remain := s.fr.remain - 1 } := rfl
@[simp] theorem State.countByte_rd (b : Byte) : (s.countByte b).rd = s.rd := rfl
@[simp] theorem State.countByte_env (b : Byte) : (s.countByte b).env = s.env := rfl

/-! ### setPaylen -/

@[simp] theorem State.setPaylen_cfg (n : Word) : (s.setPaylen n).cfg = s.cfg := rfl
@[simp] theorem State.setPaylen_phase (n : Word) : (s.setPaylen n).phase = s.phase := rfl
@[simp] theorem State.setPaylen_status (n : Word) : (s.setPaylen n).status = s.status := rfl
@[simp] theorem State.setPaylen_regs (n : Word) :
    (s.setPaylen n).regs =
      { s.regs with paylen := n } := rfl
@[simp] theorem State.setPaylen_bufs (n : Word) : (s.setPaylen n).bufs = s.bufs := rfl
@[simp] theorem State.setPaylen_latch (n : Word) : (s.setPaylen n).latch = s.latch := rfl
@[simp] theorem State.setPaylen_fr (n : Word) : (s.setPaylen n).fr = s.fr := rfl
@[simp] theorem State.setPaylen_rd (n : Word) : (s.setPaylen n).rd = s.rd := rfl
@[simp] theorem State.setPaylen_env (n : Word) : (s.setPaylen n).env = s.env := rfl

/-! ### setBlklen -/

@[simp] theorem State.setBlklen_cfg (n : Word) : (s.setBlklen n).cfg = s.cfg := rfl
@[simp] theorem State.setBlklen_phase (n : Word) : (s.setBlklen n).phase = s.phase := rfl
@[simp] theorem State.setBlklen_status (n : Word) : (s.setBlklen n).status = s.status := rfl
@[simp] theorem State.setBlklen_regs (n : Word) :
    (s.setBlklen n).regs =
      { s.regs with blklen := n } := rfl
@[simp] theorem State.setBlklen_bufs (n : Word) : (s.setBlklen n).bufs = s.bufs := rfl
@[simp] theorem State.setBlklen_latch (n : Word) : (s.setBlklen n).latch = s.latch := rfl
@[simp] theorem State.setBlklen_fr (n : Word) : (s.setBlklen n).fr = s.fr := rfl
@[simp] theorem State.setBlklen_rd (n : Word) : (s.setBlklen n).rd = s.rd := rfl
@[simp] theorem State.setBlklen_env (n : Word) : (s.setBlklen n).env = s.env := rfl

/-! ### setColumns -/

@[simp] theorem State.setColumns_cfg (nx xc : BitVec 16) : (s.setColumns nx xc).cfg = s.cfg := rfl
@[simp] theorem State.setColumns_phase (nx xc : BitVec 16) :
    (s.setColumns nx xc).phase =
      s.phase := rfl
@[simp] theorem State.setColumns_status (nx xc : BitVec 16) :
    (s.setColumns nx xc).status =
      s.status := rfl
@[simp] theorem State.setColumns_regs (nx xc : BitVec 16) :
    (s.setColumns nx xc).regs =
      s.regs := rfl
@[simp] theorem State.setColumns_bufs (nx xc : BitVec 16) :
    (s.setColumns nx xc).bufs =
      s.bufs := rfl
@[simp] theorem State.setColumns_latch (nx xc : BitVec 16) :
    (s.setColumns nx xc).latch =
      s.latch := rfl
@[simp] theorem State.setColumns_fr (nx xc : BitVec 16) : (s.setColumns nx xc).fr = s.fr := rfl
@[simp] theorem State.setColumns_rd (nx xc : BitVec 16) :
    (s.setColumns nx xc).rd =
      { s.rd with nx := nx, xc := xc } := rfl
@[simp] theorem State.setColumns_env (nx xc : BitVec 16) : (s.setColumns nx xc).env = s.env := rfl

/-! ### setNl -/

@[simp] theorem State.setNl_cfg (nl : Byte) : (s.setNl nl).cfg = s.cfg := rfl
@[simp] theorem State.setNl_phase (nl : Byte) : (s.setNl nl).phase = s.phase := rfl
@[simp] theorem State.setNl_status (nl : Byte) : (s.setNl nl).status = s.status := rfl
@[simp] theorem State.setNl_regs (nl : Byte) : (s.setNl nl).regs = s.regs := rfl
@[simp] theorem State.setNl_bufs (nl : Byte) : (s.setNl nl).bufs = s.bufs := rfl
@[simp] theorem State.setNl_latch (nl : Byte) : (s.setNl nl).latch = s.latch := rfl
@[simp] theorem State.setNl_fr (nl : Byte) : (s.setNl nl).fr = s.fr := rfl
@[simp] theorem State.setNl_rd (nl : Byte) : (s.setNl nl).rd = { s.rd with nl := nl } := rfl
@[simp] theorem State.setNl_env (nl : Byte) : (s.setNl nl).env = s.env := rfl

/-! ### advancePos -/

@[simp] theorem State.advancePos_cfg : s.advancePos.cfg = s.cfg := rfl
@[simp] theorem State.advancePos_phase : s.advancePos.phase = s.phase := rfl
@[simp] theorem State.advancePos_status : s.advancePos.status = s.status := rfl
@[simp] theorem State.advancePos_regs : s.advancePos.regs = s.regs := rfl
@[simp] theorem State.advancePos_bufs : s.advancePos.bufs = s.bufs := rfl
@[simp] theorem State.advancePos_latch : s.advancePos.latch = s.latch := rfl
@[simp] theorem State.advancePos_fr : s.advancePos.fr = s.fr := rfl
@[simp] theorem State.advancePos_rd : s.advancePos.rd = { s.rd with pos := s.rd.pos + 1 } := rfl
@[simp] theorem State.advancePos_env : s.advancePos.env = s.env := rfl

/-! ### markStart -/

@[simp] theorem State.markStart_cfg : s.markStart.cfg = s.cfg := rfl
@[simp] theorem State.markStart_phase : s.markStart.phase = s.phase := rfl
@[simp] theorem State.markStart_status : s.markStart.status = s.status := rfl
@[simp] theorem State.markStart_regs : s.markStart.regs = s.regs := rfl
@[simp] theorem State.markStart_bufs : s.markStart.bufs = s.bufs := rfl
@[simp] theorem State.markStart_latch : s.markStart.latch = s.latch := rfl
@[simp] theorem State.markStart_fr : s.markStart.fr = s.fr := rfl
@[simp] theorem State.markStart_rd : s.markStart.rd = { s.rd with cmdstart := s.rd.pos - 1 } := rfl
@[simp] theorem State.markStart_env : s.markStart.env = s.env := rfl

/-! ### setPstate -/

@[simp] theorem State.setPstate_cfg (p : PState) : (s.setPstate p).cfg = s.cfg := rfl
@[simp] theorem State.setPstate_phase (p : PState) : (s.setPstate p).phase = s.phase := rfl
@[simp] theorem State.setPstate_status (p : PState) : (s.setPstate p).status = s.status := rfl
@[simp] theorem State.setPstate_regs (p : PState) : (s.setPstate p).regs = s.regs := rfl
@[simp] theorem State.setPstate_bufs (p : PState) : (s.setPstate p).bufs = s.bufs := rfl
@[simp] theorem State.setPstate_latch (p : PState) : (s.setPstate p).latch = s.latch := rfl
@[simp] theorem State.setPstate_fr (p : PState) : (s.setPstate p).fr = s.fr := rfl
@[simp] theorem State.setPstate_rd (p : PState) :
    (s.setPstate p).rd =
      { s.rd with pstate := p } := rfl
@[simp] theorem State.setPstate_env (p : PState) : (s.setPstate p).env = s.env := rfl

/-! ### advanceRow -/

@[simp] theorem State.advanceRow_cfg : s.advanceRow.cfg = s.cfg := rfl
@[simp] theorem State.advanceRow_phase : s.advanceRow.phase = s.phase := rfl
@[simp] theorem State.advanceRow_status : s.advanceRow.status = s.status := rfl
@[simp] theorem State.advanceRow_regs :
    s.advanceRow.regs =
      { s.regs with ycur := s.regs.ycur + 8 } := rfl
@[simp] theorem State.advanceRow_bufs : s.advanceRow.bufs = s.bufs := rfl
@[simp] theorem State.advanceRow_latch : s.advanceRow.latch = s.latch := rfl
@[simp] theorem State.advanceRow_fr : s.advanceRow.fr = s.fr := rfl
@[simp] theorem State.advanceRow_rd : s.advanceRow.rd = s.rd := rfl
@[simp] theorem State.advanceRow_env : s.advanceRow.env = s.env := rfl

/-! ### countUnrec -/

@[simp] theorem State.countUnrec_cfg : s.countUnrec.cfg = s.cfg := rfl
@[simp] theorem State.countUnrec_phase : s.countUnrec.phase = s.phase := rfl
@[simp] theorem State.countUnrec_status : s.countUnrec.status = s.status := rfl
@[simp] theorem State.countUnrec_regs :
    s.countUnrec.regs =
      { s.regs with unrec := s.regs.unrec + 1 } := rfl
@[simp] theorem State.countUnrec_bufs : s.countUnrec.bufs = s.bufs := rfl
@[simp] theorem State.countUnrec_latch : s.countUnrec.latch = s.latch := rfl
@[simp] theorem State.countUnrec_fr : s.countUnrec.fr = s.fr := rfl
@[simp] theorem State.countUnrec_rd : s.countUnrec.rd = s.rd := rfl
@[simp] theorem State.countUnrec_env : s.countUnrec.env = s.env := rfl

/-! ### startDecode -/

@[simp] theorem State.startDecode_cfg : s.startDecode.cfg = s.cfg := rfl
@[simp] theorem State.startDecode_phase : s.startDecode.phase = s.phase := rfl
@[simp] theorem State.startDecode_status : s.startDecode.status = s.status := rfl
@[simp] theorem State.startDecode_regs : s.startDecode.regs = s.regs := rfl
@[simp] theorem State.startDecode_bufs : s.startDecode.bufs = { s.bufs with bitmap := [] } := rfl
@[simp] theorem State.startDecode_latch : s.startDecode.latch = s.latch := rfl
@[simp] theorem State.startDecode_fr : s.startDecode.fr = s.fr := rfl
@[simp] theorem State.startDecode_rd : s.startDecode.rd = ⟨0, .text, 0, 0, 0, 0⟩ := rfl
@[simp] theorem State.startDecode_env : s.startDecode.env = s.env := rfl

/-! ### consume -/

@[simp] theorem State.consume_cfg (n : Nat) : (s.consume n).cfg = s.cfg := rfl
@[simp] theorem State.consume_phase (n : Nat) : (s.consume n).phase = s.phase := rfl
@[simp] theorem State.consume_status (n : Nat) : (s.consume n).status = s.status := rfl
@[simp] theorem State.consume_regs (n : Nat) : (s.consume n).regs = s.regs := rfl
@[simp] theorem State.consume_bufs (n : Nat) : (s.consume n).bufs = s.bufs := rfl
@[simp] theorem State.consume_latch (n : Nat) : (s.consume n).latch = s.latch := rfl
@[simp] theorem State.consume_fr (n : Nat) : (s.consume n).fr = s.fr := rfl
@[simp] theorem State.consume_rd (n : Nat) :
    (s.consume n).rd =
      { s.rd with pos := s.rd.pos + BitVec.ofNat 32 n, cmdstart := s.rd.pos, pstate := .text } := rfl
@[simp] theorem State.consume_env (n : Nat) : (s.consume n).env = s.env := rfl

/-! ### reply -/

@[simp] theorem State.reply_cfg (r : Reply) : (s.reply r).cfg = s.cfg := rfl
@[simp] theorem State.reply_phase (r : Reply) : (s.reply r).phase = s.phase := rfl
@[simp] theorem State.reply_status (r : Reply) : (s.reply r).status = s.status := rfl
@[simp] theorem State.reply_regs (r : Reply) : (s.reply r).regs = s.regs := rfl
@[simp] theorem State.reply_bufs (r : Reply) : (s.reply r).bufs = s.bufs := rfl
@[simp] theorem State.reply_latch (r : Reply) : (s.reply r).latch = s.latch := rfl
@[simp] theorem State.reply_fr (r : Reply) : (s.reply r).fr = s.fr := rfl
@[simp] theorem State.reply_rd (r : Reply) : (s.reply r).rd = s.rd := rfl
@[simp] theorem State.reply_env (r : Reply) :
    (s.reply r).env =
      { s.env with replies := r :: s.env.replies } := rfl

/-! ### countDraw -/

@[simp] theorem State.countDraw_cfg : s.countDraw.cfg = s.cfg := rfl
@[simp] theorem State.countDraw_phase : s.countDraw.phase = s.phase := rfl
@[simp] theorem State.countDraw_status : s.countDraw.status = s.status := rfl
@[simp] theorem State.countDraw_regs : s.countDraw.regs = s.regs := rfl
@[simp] theorem State.countDraw_bufs : s.countDraw.bufs = s.bufs := rfl
@[simp] theorem State.countDraw_latch : s.countDraw.latch = s.latch := rfl
@[simp] theorem State.countDraw_fr : s.countDraw.fr = s.fr := rfl
@[simp] theorem State.countDraw_rd : s.countDraw.rd = s.rd := rfl
@[simp] theorem State.countDraw_env :
    s.countDraw.env =
      { s.env with draws := s.env.draws + 1 } := rfl

/-! ### setTokenLen -/

@[simp] theorem State.setTokenLen_cfg (ack : Bool) (n : Word) :
    (s.setTokenLen ack n).cfg =
      s.cfg := by
  cases ack <;> rfl
@[simp] theorem State.setTokenLen_phase (ack : Bool) (n : Word) :
    (s.setTokenLen ack n).phase =
      s.phase := by
  cases ack <;> rfl
@[simp] theorem State.setTokenLen_status (ack : Bool) (n : Word) :
    (s.setTokenLen ack n).status =
      s.status := by
  cases ack <;> rfl
@[simp] theorem State.setTokenLen_regs (ack : Bool) (n : Word) :
    (s.setTokenLen ack n).regs =
      if ack then { s.regs with acklen := n } else { s.regs with strlen := n } := by
  cases ack <;> rfl
@[simp] theorem State.setTokenLen_bufs (ack : Bool) (n : Word) :
    (s.setTokenLen ack n).bufs =
      s.bufs := by
  cases ack <;> rfl
@[simp] theorem State.setTokenLen_latch (ack : Bool) (n : Word) :
    (s.setTokenLen ack n).latch =
      s.latch := by
  cases ack <;> rfl
@[simp] theorem State.setTokenLen_fr (ack : Bool) (n : Word) :
    (s.setTokenLen ack n).fr =
      s.fr := by
  cases ack <;> rfl
@[simp] theorem State.setTokenLen_rd (ack : Bool) (n : Word) :
    (s.setTokenLen ack n).rd =
      s.rd := by
  cases ack <;> rfl
@[simp] theorem State.setTokenLen_env (ack : Bool) (n : Word) :
    (s.setTokenLen ack n).env =
      s.env := by
  cases ack <;> rfl

/-! ### startToken -/

@[simp] theorem State.startToken_cfg (ack : Bool) :
    (s.startToken ack).cfg =
      s.cfg := by
  cases ack <;> rfl
@[simp] theorem State.startToken_phase (ack : Bool) :
    (s.startToken ack).phase =
      s.phase := by
  cases ack <;> rfl
@[simp] theorem State.startToken_status (ack : Bool) :
    (s.startToken ack).status =
      s.status := by
  cases ack <;> rfl
@[simp] theorem State.startToken_regs (ack : Bool) :
    (s.startToken ack).regs =
      if ack then { s.regs with acklen := 0 } else { s.regs with strlen := 0 } := by
  cases ack <;> rfl
@[simp] theorem State.startToken_bufs (ack : Bool) :
    (s.startToken ack).bufs =
      s.bufs := by
  cases ack <;> rfl
@[simp] theorem State.startToken_latch (ack : Bool) :
    (s.startToken ack).latch =
      s.latch := by
  cases ack <;> rfl
@[simp] theorem State.startToken_fr (ack : Bool) :
    (s.startToken ack).fr =
      { s.fr with ovf := false, emptycnt := 0 } := by
  cases ack <;> rfl
@[simp] theorem State.startToken_rd (ack : Bool) :
    (s.startToken ack).rd =
      s.rd := by
  cases ack <;> rfl
@[simp] theorem State.startToken_env (ack : Bool) :
    (s.startToken ack).env =
      s.env := by
  cases ack <;> rfl

/-! ### The length register and the contents of a buffer -/

@[simp] theorem State.tokenLen_setTokenLen (ack : Bool) (n : Word) :
    (s.setTokenLen ack n).tokenLen ack = n := by cases ack <;> rfl

@[simp] theorem Buffers.get_set_same (b : Buffers) (sp : Space) (m : Memory) :
    (b.set sp m).get sp = m := by cases sp <;> rfl

theorem Buffers.get_set_other (b : Buffers) {sp sp' : Space} (h : sp' ≠ sp) (m : Memory) :
    (b.set sp m).get sp' = b.get sp' := by cases sp <;> cases sp' <;> first | rfl | exact absurd rfl h

@[simp] theorem State.busy_idle (h : s.phase = .idle) : s.busy = false := by simp [State.busy, h]

theorem State.busy_iff : s.busy = true ↔ s.phase ≠ .idle := by simp [State.busy]

end Sys2Proof.Machine
end

