-- ==== Sys2Proof/Laws/Ops.lean ====
section
/-! SUPPORT. What each shared operation can do, said once: if it answers, then one of these cases holds.
Proofs cite these lemmas instead of unfolding the operations. -/

namespace Sys2Proof.Machine

/-! ## Block buffer accesses (R62) -/

theorem State.blockRead_of_lt {s : State} {sp : Space} {i : Nat} (h : i < sp.size s.cfg) :
    s.blockRead sp i = .ok (s.byteAt sp i) := if_pos h

theorem State.blockRead_ok {s : State} {sp : Space} {i : Nat} {b : Byte} :
    s.blockRead sp i = .ok b ↔ i < sp.size s.cfg ∧ s.byteAt sp i = b := by
  unfold State.blockRead; split <;> simp_all

theorem State.blockWrite_of_lt {s : State} {sp : Space} {i : Nat} (v : Byte)
    (h : i < sp.size s.cfg) :
    s.blockWrite sp i v = .ok (s.setBuf sp (Memory.write (s.bufs.get sp) i v)) := if_pos h

theorem State.blockWrite_ok {s t : State} {sp : Space} {i : Nat} {v : Byte} :
    s.blockWrite sp i v = .ok t ↔
      i < sp.size s.cfg ∧ s.setBuf sp (Memory.write (s.bufs.get sp) i v) = t := by
  unfold State.blockWrite; split <;> simp_all

/-- Reading many bytes inside a buffer gives them in order. -/
theorem State.blockReadMany_of_le {s : State} {sp : Space} {n i : Nat}
    (h : i + n ≤ sp.size s.cfg) :
    s.blockReadMany sp n i = .ok ((List.range' i n).map (s.byteAt sp)) := by
  induction n generalizing i with
  | zero => rfl
  | succ n ih =>
    simp [State.blockReadMany, State.blockRead_of_lt (show i < sp.size s.cfg by omega),
      ih (show i + 1 + n ≤ sp.size s.cfg by omega), List.range'_succ]

/-- The command frame when it lies in TXBUF (R91). -/
theorem State.txFrame_of_le {s : State} (h : s.regs.txlen.toNat ≤ s.cfg.txCap) :
    s.txFrame =
      .ok ((List.range' 0 s.regs.txlen.toNat).map (s.byteAt .txbuf) ++ [carriageReturn]) := by
  unfold State.txFrame
  rw [State.blockReadMany_of_le (by rw [Nat.zero_add]; exact h)]

/-! ## How a step of an operation answers -/

/-- What one step of an operation answers, from where its body stands. -/
theorem conclude_next {π : Type} {s t : State} {into : π → Phase}
    {p : Except Fault (Progress π)} (h : conclude s into p = .next t) :
    (p = .ok .wait ∧ t = s) ∨ p = .ok (.ended t) ∨
      (∃ q u, p = .ok (.more q u) ∧ t = u.enter (into q)) ∨
      (∃ u, p = .ok (.done u) ∧ t = u.finish) := by
  rcases p with f | (_ | u | ⟨q, u⟩ | u) <;> simp only [conclude] at h
  · cases h
  · cases h; exact .inl ⟨rfl, rfl⟩
  · cases h; exact .inr (.inl rfl)
  · cases h; exact .inr (.inr (.inl ⟨q, u, rfl, rfl⟩))
  · cases h; exact .inr (.inr (.inr ⟨u, rfl, rfl⟩))

/-- A step of an operation faults only where its body does. -/
theorem conclude_fault {π : Type} {s : State} {into : π → Phase}
    {p : Except Fault (Progress π)} {f : Fault} (h : conclude s into p = .fault f) :
    p = .error f := by
  rcases p with g | (_ | u | ⟨q, u⟩ | u) <;> simp_all [conclude]

theorem conclude_not_refused {π : Type} {s : State} {into : π → Phase}
    {p : Except Fault (Progress π)} {r : Refusal} : conclude s into p ≠ .refused r := by
  rcases p with f | (_ | u | ⟨q, u⟩ | u) <;> simp [conclude]

/-- Where a procedure inside another leaves the outer one. -/
theorem Progress.within_ok {π ρ : Type} {into : π → ρ}
    {ret : State → Except Fault (Progress ρ)} {p : Except Fault (Progress π)} {g : Progress ρ}
    (h : Progress.within into ret p = .ok g) :
    (p = .ok .wait ∧ g = .wait) ∨ (∃ t, p = .ok (.ended t) ∧ g = .ended t) ∨
      (∃ q t, p = .ok (.more q t) ∧ g = .more (into q) t) ∨
      (∃ t, p = .ok (.done t) ∧ ret t = .ok g) := by
  rcases p with f | (_ | u | ⟨q, u⟩ | u) <;> simp_all [Progress.within]

theorem Progress.within_error {π ρ : Type} {into : π → ρ}
    {ret : State → Except Fault (Progress ρ)} {p : Except Fault (Progress π)} {f : Fault}
    (h : Progress.within into ret p = .error f) :
    p = .error f ∨ ∃ t, p = .ok (.done t) ∧ ret t = .error f := by
  rcases p with g | (_ | u | ⟨q, u⟩ | u) <;> simp_all [Progress.within]

/-! ## ReadByte, ReadToken, ReadBlock, SendCommand -/

/-- Everything one step of `ReadByte` can do (R117). -/
theorem readByte_cases (s : State) :
    (s.env.reads = [] ∧ readByte s = .wait) ∨
    (∃ b rs, s.env.reads = .byte b :: rs ∧
      readByte s = .byte b ((s.setReads rs).setEmptycnt 0)) ∨
    (∃ rs, s.env.reads = .fail :: rs ∧
      readByte s = .ended ((s.setReads rs).raiseErr .readFail)) ∨
    (∃ rs, s.env.reads = .empty :: rs ∧ (s.fr.emptycnt + 1).toNat = s.cfg.emptyLimit ∧
      readByte s = .ended
        (((s.setReads rs).setEmptycnt (s.fr.emptycnt + 1)).raiseErr .readTimeout)) ∨
    (∃ rs, s.env.reads = .empty :: rs ∧ (s.fr.emptycnt + 1).toNat ≠ s.cfg.emptyLimit ∧
      readByte s = .again ((s.setReads rs).setEmptycnt (s.fr.emptycnt + 1))) := by
  rcases h : s.env.reads with _ | ⟨_ | _ | _, rs⟩
  · exact .inl ⟨rfl, by simp only [readByte, h]⟩
  · exact .inr (.inl ⟨_, rs, rfl, by simp only [readByte, h]⟩)
  · by_cases hc : (s.fr.emptycnt + 1).toNat = s.cfg.emptyLimit
    · exact .inr (.inr (.inr (.inl ⟨rs, rfl, hc, by simp only [readByte, h, if_pos hc]⟩)))
    · exact .inr (.inr (.inr (.inr ⟨rs, rfl, hc, by simp only [readByte, h, if_neg hc]⟩)))
  · exact .inr (.inr (.inl ⟨rs, rfl, by simp only [readByte, h]⟩))

/-- The state a step of `ReadToken` reads its byte in: its first lines run with its first read. -/
theorem tokenStep_start (stop : Byte) (ack : Bool) (s : State) :
    tokenStep .start stop ack s = tokenStep .loop stop ack (s.startToken ack) := rfl

theorem blockStep_start (s : State) : blockStep .start s = blockStep .loop s.startBlock := rfl

/-- What `storeToken` leaves: the byte at LEN and LEN one more, or OVF set (R119). -/
theorem State.storeToken_ok {s t : State} {ack : Bool} {b : Byte}
    (h : s.storeToken ack b = .ok t) :
    ((s.tokenLen ack).toNat < s.cfg.tokenCap ∧
      t = (s.setBuf (tokenSpace ack)
        (Memory.write (s.bufs.get (tokenSpace ack)) (s.tokenLen ack).toNat b)).setTokenLen ack
          (s.tokenLen ack + 1)) ∨
    (s.cfg.tokenCap ≤ (s.tokenLen ack).toNat ∧ t = s.setOvf) := by
  unfold State.storeToken at h
  split at h
  · rename_i hl
    have hw : (s.tokenLen ack).toNat < (tokenSpace ack).size s.cfg := by
      cases ack <;> exact hl
    rw [State.blockWrite_of_lt b hw] at h
    cases h
    exact .inl ⟨hl, rfl⟩
  · cases h; exact .inr ⟨by omega, rfl⟩

/-- `storeToken` never faults: it checks its bound first (R62, R119). -/
theorem State.storeToken_no_fault (s : State) (ack : Bool) (b : Byte) (f : Fault) :
    s.storeToken ack b ≠ .error f := by
  unfold State.storeToken
  split
  · rename_i hl
    have hw : (s.tokenLen ack).toNat < (tokenSpace ack).size s.cfg := by
      cases ack <;> exact hl
    simp [State.blockWrite_of_lt b hw]
  · simp

/-- What `storeBlock` leaves: the byte summed and counted, and stored below PAYLOAD_CAP (R124, R125). -/
theorem State.storeBlock_ok {s t : State} {b : Byte} (h : s.storeBlock b = .ok t) :
    (s.fr.idx.toNat < s.cfg.payloadCap ∧
      t = ((s.countByte b).setBuf .payload
        (Memory.write s.bufs.payload s.fr.idx.toNat b)).setPaylen (s.fr.idx + 1)) ∨
    (s.cfg.payloadCap ≤ s.fr.idx.toNat ∧ t = s.countByte b) := by
  unfold State.storeBlock at h
  split at h
  · rename_i hl
    rw [State.blockWrite_of_lt (s := s.countByte b) (sp := .payload) b hl] at h
    cases h
    exact .inl ⟨hl, rfl⟩
  · cases h; exact .inr ⟨by omega, rfl⟩

/-- `storeBlock` never faults: it checks its bound first (R62, R125). -/
theorem State.storeBlock_no_fault (s : State) (b : Byte) (f : Fault) :
    s.storeBlock b ≠ .error f := by
  unfold State.storeBlock
  split
  · rename_i hl
    simp [State.blockWrite_of_lt (s := s.countByte b) (sp := .payload) b hl]
  · simp

/-- Everything one step of `ReadToken`'s loop can do (R118). -/
theorem tokenStep_loop_ok {stop : Byte} {ack : Bool} {s : State} {g : Progress TokenPhase}
    (h : tokenStep .loop stop ack s = .ok g) :
    (readByte s = .wait ∧ g = .wait) ∨ (∃ u, readByte s = .ended u ∧ g = .ended u) ∨
      (∃ u, readByte s = .again u ∧ g = .more .loop u) ∨
      (∃ u, readByte s = .byte stop u ∧
        g = if u.fr.ovf then .ended (u.raiseErr .tokenOverflow) else .done u) ∨
      (∃ b u v, readByte s = .byte b u ∧ b ≠ stop ∧ u.storeToken ack b = .ok v ∧
        g = .more .loop v) := by
  unfold tokenStep at h
  dsimp only at h
  split at h
  · cases h; exact .inl ⟨‹_›, rfl⟩
  · cases h; exact .inr (.inl ⟨_, ‹_›, rfl⟩)
  · cases h; exact .inr (.inr (.inl ⟨_, ‹_›, rfl⟩))
  · split at h
    · rename_i hr hb; subst hb; cases h
      exact .inr (.inr (.inr (.inl ⟨_, hr, rfl⟩)))
    · split at h
      · cases h
      · cases h; exact .inr (.inr (.inr (.inr ⟨_, _, _, ‹_›, ‹_›, ‹_›, rfl⟩)))

theorem tokenStep_no_fault (p : TokenPhase) (stop : Byte) (ack : Bool) (s : State) (f : Fault) :
    tokenStep p stop ack s ≠ .error f := by
  unfold tokenStep
  split
  · simp
  · simp
  · simp
  · split
    · simp
    · split
      · rename_i he; exact absurd he (State.storeToken_no_fault _ _ _ _)
      · simp

/-- Everything one step of `ReadBlock`'s loop can do (R124). -/
theorem blockStep_loop_ok {s : State} {g : Progress BlockPhase} (h : blockStep .loop s = .ok g) :
    (readByte s = .wait ∧ g = .wait) ∨ (∃ u, readByte s = .ended u ∧ g = .ended u) ∨
      (∃ u, readByte s = .again u ∧ g = .more .loop u) ∨
      (∃ c u, readByte s = .byte c u ∧ u.fr.remain = 0 ∧ g = .done (u.recordChecksum c)) ∨
      (∃ b u v, readByte s = .byte b u ∧ u.fr.remain ≠ 0 ∧ u.storeBlock b = .ok v ∧
        g = .more .loop v) := by
  unfold blockStep at h
  dsimp only at h
  split at h
  · cases h; exact .inl ⟨‹_›, rfl⟩
  · cases h; exact .inr (.inl ⟨_, ‹_›, rfl⟩)
  · cases h; exact .inr (.inr (.inl ⟨_, ‹_›, rfl⟩))
  · split at h
    · cases h; exact .inr (.inr (.inr (.inl ⟨_, _, ‹_›, ‹_›, rfl⟩)))
    · split at h
      · cases h
      · cases h; exact .inr (.inr (.inr (.inr ⟨_, _, _, ‹_›, ‹_›, ‹_›, rfl⟩)))

theorem blockStep_no_fault (p : BlockPhase) (s : State) (f : Fault) :
    blockStep p s ≠ .error f := by
  unfold blockStep
  split
  · simp
  · simp
  · simp
  · split
    · simp
    · split
      · rename_i he; exact absurd he (State.storeBlock_no_fault _ _ _)
      · simp

/-- Everything the one step of `SendCommand` can do with a frame that lies in TXBUF (R137). -/
theorem sendCommand_ok {s : State} {g : Progress Unit} (h : sendCommand s = .ok g) :
    ∃ frame, s.txFrame = .ok frame ∧
      ((s.env.writes = [] ∧ g = .wait) ∨
       (∃ ws, s.env.writes = .ok frame.length :: ws ∧ g = .done (s.recordWrite frame ws)) ∨
       (∃ a ws, s.env.writes = a :: ws ∧ a ≠ .ok frame.length ∧
        g = .ended ((s.recordWrite frame ws).raiseErr .writeFail))) := by
  unfold sendCommand at h
  split at h
  · cases h
  · rename_i frame hf
    refine ⟨frame, hf, ?_⟩
    split at h
    · cases h; exact .inl ⟨‹_›, rfl⟩
    · split at h
      · rename_i hk; subst hk; cases h; exact .inr (.inl ⟨_, ‹_›, rfl⟩)
      · cases h; exact .inr (.inr ⟨_, _, ‹_›, by simpa using ‹¬_›, rfl⟩)
    · cases h; exact .inr (.inr ⟨_, _, ‹_›, by simp, rfl⟩)

/-- What the end of an ack token records (R140 to R142). -/
theorem State.recordAck_ok {s t : State} (h : s.recordAck = .ok t) :
    t = { s with status := { s.status with
      ackValid := true,
      ackOk := decide (1 ≤ s.regs.acklen.toNat) && decide (s.byteAt .ackbuf 0 = 0x30) } } := by
  unfold State.recordAck State.ackIsOk at h
  split at h
  · cases h
  · rename_i v hv
    cases h
    split at hv
    · rename_i hl
      split at hv
      · cases hv
      · rename_i b hb
        obtain ⟨_, rfl⟩ := State.blockRead_ok.mp hb
        cases hv
        simp [hl]
    · rename_i hl
      cases hv
      simp [hl]

/-! ## Pixels -/

/-- In a legal configuration a pixel inside the bitmap lies in a byte of BITMAP (R64). -/
theorem pixelByte_lt_size {c : Config} (hc : c.Legal) {x y : Nat} (hx : x < c.w) (hy : y < c.h) :
    pixelByte c x y < Space.bitmap.size c := by
  obtain ⟨⟨-, -, hw⟩, -⟩ := hc
  obtain ⟨q, hq⟩ : ∃ q, c.w = 8 * q := ⟨c.w / 8, by omega⟩
  simp only [pixelByte, Space.size]
  rw [hq, Nat.mul_div_cancel_left q (by decide), show c.h * (8 * q) = 8 * (c.h * q) by ring,
    Nat.mul_div_cancel_left _ (by decide)]
  have h1 : x / 8 < q := by omega
  have h2 : (y + 1) * q ≤ c.h * q := Nat.mul_le_mul_right q hy
  have h3 : (y + 1) * q = y * q + q := by ring
  omega

/-- What `PixWrite` leaves (R166): one bit of one byte, or nothing outside W x H. -/
theorem pixWrite_ok {c : Config} {x y : Nat} {v : Bool} {m m' : Memory}
    (h : pixWrite c x y v m = .ok m') :
    (x < c.w ∧ y < c.h ∧ pixelByte c x y < Space.bitmap.size c ∧
      m' = Memory.write m (pixelByte c x y)
        (setBit (Memory.read m (pixelByte c x y)) (7 - x % 8) v)) ∨
    (¬(x < c.w ∧ y < c.h) ∧ m' = m) := by
  unfold pixWrite at h
  split at h
  · split at h
    · cases h; exact .inl ⟨by tauto, by tauto, ‹_›, rfl⟩
    · cases h
  · cases h; exact .inr ⟨‹_›, rfl⟩

/-- In a legal configuration `PixWrite` never faults (R62). -/
theorem pixWrite_no_fault {c : Config} (hc : c.Legal) (x y : Nat) (v : Bool) (m : Memory)
    (f : Fault) : pixWrite c x y v m ≠ .error f := by
  unfold pixWrite
  split
  · rename_i hxy
    simp [pixelByte_lt_size hc hxy.1 hxy.2]
  · simp

/-- A property of bitmaps that every `PixWrite` keeps is kept by a column. -/
theorem paintRows_keeps {c : Config} {P : Memory → Prop} {x y : Nat} {d : Byte}
    (hP : ∀ y v m m', P m → pixWrite c x y v m = .ok m' → P m') {is : List Nat} {m m' : Memory}
    (hm : P m) (h : paintRows c x y d is m = .ok m') : P m' := by
  induction is generalizing m with
  | nil => cases h; exact hm
  | cons i is ih =>
    simp only [paintRows] at h
    split at h
    · cases h
    · exact ih (hP _ _ _ _ hm ‹_›) h

/-- A property of bitmaps that every `PixWrite` keeps is kept by a bit-image command. -/
theorem paintColumns_keeps {c : Config} {P : Memory → Prop} {y : Nat}
    (hP : ∀ x y v m m', P m → pixWrite c x y v m = .ok m' → P m') {x : Nat} {ds : List Byte}
    {m m' : Memory} (hm : P m) (h : paintColumns c y x ds m = .ok m') : P m' := by
  induction ds generalizing x m with
  | nil => cases h; exact hm
  | cons d ds ih =>
    simp only [paintColumns] at h
    split at h
    · cases h
    · exact ih (paintRows_keeps (hP x) hm ‹_›) h

theorem paintRows_no_fault {c : Config} (hc : c.Legal) (x y : Nat) (d : Byte) (is : List Nat)
    (m : Memory) (f : Fault) : paintRows c x y d is m ≠ .error f := by
  induction is generalizing m with
  | nil => simp [paintRows]
  | cons i is ih =>
    simp only [paintRows]
    split
    · rename_i he; exact absurd he (pixWrite_no_fault hc _ _ _ _ _)
    · exact ih _

theorem paintColumns_no_fault {c : Config} (hc : c.Legal) (y x : Nat) (ds : List Byte)
    (m : Memory) (f : Fault) : paintColumns c y x ds m ≠ .error f := by
  induction ds generalizing x m with
  | nil => simp [paintColumns]
  | cons d ds ih =>
    simp only [paintColumns]
    split
    · rename_i he; exact absurd he (paintRows_no_fault hc _ _ _ _ _ _)
    · exact ih _ _

/-! ## The host's port and the step -/

/-- Everything a host access can do to the state it leaves (R22, R61): a reply, a draw, an ignored
access, a stored register or a stored byte. -/
theorem hostAccess_done {a : HostAccess} {s t : State} (h : hostAccess a s = .done t) :
    (∃ off, t = s.hostRegRead off) ∨ (∃ off v, t = s.hostRegWrite off v) ∨
      (∃ sp i, t = s.hostMemRead sp i) ∨ (∃ sp i v, t = s.hostMemWrite sp i v) := by
  cases a with
  | regRead w off =>
    simp only [hostAccess] at h
    split at h
    · cases h; exact .inl ⟨off, rfl⟩
    · cases h
  | regWrite w off v =>
    simp only [hostAccess] at h
    split at h
    · split at h
      · cases h
      · cases h; exact .inr (.inl ⟨off, v, rfl⟩)
    · cases h
  | memRead sp i => cases h; exact .inr (.inr (.inl ⟨sp, i, rfl⟩))
  | memWrite sp i v => cases h; exact .inr (.inr (.inr ⟨sp, i, v, rfl⟩))

/-- A host access is an instruction exactly when it writes CMD of an idle block (R24). -/
theorem hostAccess_command {a : HostAccess} {s : State} {w : Word}
    (h : hostAccess a s = .command w) : a = .regWrite 32 0 w ∧ s.busy = false := by
  cases a with
  | regRead wd off => simp only [hostAccess] at h; split at h <;> cases h
  | regWrite wd off v =>
    simp only [hostAccess] at h
    split at h
    · rename_i hv
      split at h
      · rename_i ho
        cases h
        simp only [validRegister, Bool.and_eq_true, decide_eq_true_eq] at hv
        exact ⟨by rw [hv.1.1, ho.1], ho.2⟩
      · cases h
    · cases h
  | memRead sp i => cases h
  | memWrite sp i v => cases h

/-- Everything a step can do: the block's turn, a command word, a host access, or a reset. -/
theorem step_next {s t : State} (h : step s = .next t) :
    (s.env.turns = [] ∧ blockTurn s = .next t) ∨
    (∃ ts, s.env.turns = .block :: ts ∧ blockTurn (s.setTurns ts) = .next t) ∨
    (∃ w ts, s.env.turns = .host (.regWrite 32 0 w) :: ts ∧ s.busy = false ∧
      exec (decodeWord w) (s.setTurns ts) = .next t) ∨
    (∃ a ts, s.env.turns = .host a :: ts ∧ hostAccess a (s.setTurns ts) = .done t) ∨
    (∃ ts, s.env.turns = .reset :: ts ∧ t = (s.setTurns ts).resetBlock) := by
  unfold step at h
  split at h
  · exact .inl ⟨‹_›, h⟩
  · exact .inr (.inl ⟨_, ‹_›, h⟩)
  · rename_i a ts ht
    unfold hostTurn at h
    split at h
    · rename_i w hw
      obtain ⟨rfl, hb⟩ := hostAccess_command hw
      exact .inr (.inr (.inl ⟨w, ts, ht, hb, h⟩))
    · rename_i u hu
      cases h
      exact .inr (.inr (.inr (.inl ⟨a, ts, ht, hu⟩)))
    · cases h
  · cases h
    exact .inr (.inr (.inr (.inr ⟨_, ‹_›, rfl⟩)))

end Sys2Proof.Machine
end

