-- ==== Sys2Proof/Laws/PerInstr.lean ====
section
/-! SUPPORT. Statements for all instructions, made one by one. `CodeLength`: a well-formed instruction's
code has the length its format gives it (spec/30_encoding.md R85, R100). -/

namespace Sys2Proof.Laws.CodeLength

/-- The code of `i` has the length of `i`, in every configuration in which `i` is well-formed. -/
def Statement (i : Instr) : Prop :=
  ∀ c : Config, i.wf c = true → (encode c i).length = i.length

theorem nop (stop : Byte) (bufsel kind : Bool) : Statement (.nop stop bufsel kind) :=
  fun _ _ => rfl

theorem readUntil (stop : Byte) (bufsel kind : Bool) : Statement (.readUntil stop bufsel kind) :=
  fun _ _ => rfl

theorem readBlock (stop : Byte) (bufsel kind : Bool) : Statement (.readBlock stop bufsel kind) :=
  fun _ _ => rfl

theorem readFrame (stop : Byte) (bufsel kind : Bool) : Statement (.readFrame stop bufsel kind) :=
  fun _ _ => rfl

theorem send (stop : Byte) (bufsel kind : Bool) : Statement (.send stop bufsel kind) :=
  fun _ _ => rfl

theorem transactS (stop : Byte) (bufsel : Bool) : Statement (.transactS stop bufsel) :=
  fun _ _ => rfl

theorem transactG (stop : Byte) (bufsel : Bool) : Statement (.transactG stop bufsel) :=
  fun _ _ => rfl

theorem decode (stop : Byte) (bufsel kind : Bool) : Statement (.decode stop bufsel kind) :=
  fun _ _ => rfl

theorem badOp7 (rest : BitVec 28) : Statement (.badOp7 rest) := fun _ _ => rfl

theorem badOp8F (low : BitVec 3) (rest : BitVec 28) : Statement (.badOp8F low rest) :=
  fun _ _ => rfl

theorem badReserved (op lo : BitVec 4) (mid : BitVec 10) (hi : BitVec 14) :
    Statement (.badReserved op lo mid hi) := fun _ _ => rfl

theorem escReset : Statement .escReset := fun _ _ => rfl

theorem escBitimg (mode : Byte) (nx : BitVec 16) (data : List Byte) :
    Statement (.escBitimg mode nx data) := by
  intro c h
  simp only [Instr.wf, decide_eq_true_eq] at h
  simp only [encode, Code.length, Instr.length, List.length_cons, h]
  omega

theorem escLsp (n : Byte) : Statement (.escLsp n) := fun _ _ => rfl

theorem escFam (n : Byte) : Statement (.escFam n) := fun _ _ => rfl

theorem escPitch : Statement .escPitch := fun _ _ => rfl

theorem escUnrec (s : Byte) : Statement (.escUnrec s) := fun _ _ => rfl

theorem txt (b : Byte) : Statement (.txt b) := fun _ _ => rfl

end Sys2Proof.Laws.CodeLength
end

