-- ==== Sys2Proof/Tests/Slice0.lean ====
section
/-! SUPPORT. The model's own tests: the well-formedness smoke test, the decoding of words written out from
spec/30_encoding.md, small steps with expected values from the rules' examples and from
spec/95_test_vectors.md, and a witness for every statement that has hypotheses. -/

namespace Sys2Proof.Tests

open Sys2Proof.Machine

/-! ## Small states -/

/-- The reference parameters with EMPTY_LIMIT = 3, as spec/95_test_vectors.md takes them. -/
def vectorConfig : Config where
  w := 240
  h := 240
  tokenCap := 256
  txCap := 64
  payloadCap := 16384
  emptyLimit := 3
  fontSel := 0x6B
  pitchSel := 0x50

/-- A small configuration: a 16 x 8 bitmap and short buffers. -/
def smallConfig : Config where
  w := 16
  h := 8
  tokenCap := 4
  txCap := 4
  payloadCap := 16
  emptyLimit := 3
  fontSel := 0x6B
  pitchSel := 0x50

/-- The reset state of the small configuration. -/
def small : State := State.resetWith smallConfig

/-- The same with channel answers. -/
def reading (p : Phase) (rs : List ReadAnswer) : State :=
  { small with phase := p, env := { small.env with reads := rs } }

/-- A block in DECODE's loop at the front of the given stream, with the cursor at `y`. -/
def decoding (bs : List Byte) (y : Word) : State :=
  let s := small.withStream bs
  { s with regs := { s.regs with ycur := y }, env := small.env }

/-- The state a step leaves, if it leaves one. -/
def after : Host.Outcome State Fault Refusal → Option State
  | .next t => some t
  | _ => none

/-! ## The invariant, checked by evaluation -/

/-- The five buffers. -/
def spaces : List Space := [.txbuf, .ackbuf, .strbuf, .payload, .bitmap]

/-- The invariant as a test. -/
def invCheck (s : State) : Bool :=
  decide s.cfg.Legal &&
  spaces.all (fun sp => Memory.wf (s.bufs.get sp) && Memory.within (sp.size s.cfg) (s.bufs.get sp)) &&
  decide (s.regs.acklen.toNat ≤ s.cfg.tokenCap) && decide (s.regs.strlen.toNat ≤ s.cfg.tokenCap) &&
  (!s.status.chkOk || s.status.chkValid) && (!s.status.ackOk || s.status.ackValid) &&
  (!s.busy || !s.status.done) && (!s.busy || decide (s.status.err = .noError)) &&
  (!s.phase.sends || decide (s.regs.txlen.toNat ≤ s.cfg.txCap)) &&
  (!s.phase.decodes || decide (s.regs.paylen.toNat ≤ s.cfg.payloadCap)) &&
  (!decide (s.phase = .decode .loop) || decide (s.rd.pos.toNat ≤ s.regs.paylen.toNat)) &&
  (match s.phase.kind with | none => true | some k => s.latch.kind == k) &&
  decide (s.regs.ycur.toNat % 8 = 0)

theorem inv_of_check {s : State} (h : invCheck s = true) : s.Inv := by
  simp only [invCheck, Bool.and_eq_true, decide_eq_true_eq, Bool.or_eq_true, Bool.not_eq_true',
    List.all_eq_true, decide_eq_false_iff_not] at h
  obtain ⟨⟨⟨⟨⟨⟨⟨⟨⟨⟨⟨⟨hc, hb⟩, ha⟩, hs⟩, hck⟩, hak⟩, hd⟩, he⟩, hf⟩, hp⟩, hpos⟩, hk⟩, hy⟩ := h
  have hall : ∀ sp : Space, sp ∈ spaces := by intro sp; cases sp <;> simp [spaces]
  refine ⟨hc, fun sp => (hb sp (hall sp)).1, fun sp => (hb sp (hall sp)).2, ha, hs,
    fun h => ?_, fun h => ?_, fun h => ?_, fun h => ?_, fun h => ?_, fun h => ?_, fun h => ?_,
    fun k h => ?_, hy⟩
  · rcases hck with hck | hck
    · rw [h] at hck; cases hck
    · exact hck
  · rcases hak with hak | hak
    · rw [h] at hak; cases hak
    · exact hak
  · rcases hd with hd | hd
    · rw [h] at hd; cases hd
    · exact hd
  · rcases he with he | he
    · rw [h] at he; cases he
    · exact he
  · rcases hf with hf | hf
    · rw [h] at hf; cases hf
    · exact hf
  · rcases hp with hp | hp
    · rw [h] at hp; cases hp
    · exact hp
  · exact hpos.resolve_left (fun hn => hn h)
  · rw [h] at hk; exact beq_iff_eq.mp hk

/-! ## Well-formedness: an ill-formed term for each check -/

theorem test_wf_refuses_reserved_op_too_large :
    (Instr.badReserved 7 1 0 0).wf vectorConfig = false := by decide
theorem test_wf_refuses_reserved_bits_zero :
    (Instr.badReserved 6 0 0x3FF 0).wf vectorConfig = false := by decide
theorem test_wf_refuses_column_count_mismatch :
    (Instr.escBitimg 0 2 [0xFF]).wf vectorConfig = false := by decide
theorem test_wf_refuses_recognised_selector :
    (Instr.escUnrec 0x6B).wf vectorConfig = false := by decide
theorem test_wf_refuses_escape_as_text : (Instr.txt 0x1B).wf vectorConfig = false := by decide
theorem test_illegal_config_has_no_state :
    State.ofConfig { vectorConfig with w := 12 } = none := by decide

/-! ## Decoding: words and bytes written out from R86, R87, R96, R97, R103, R104 -/

theorem test_decode_nop : decodeWord 0x00000000 = .nop 0 false false := by decide
theorem test_decode_readUntil : decodeWord 0x00010D01 = .readUntil 0x0D true false := by decide
theorem test_decode_readBlock : decodeWord 0x00000002 = .readBlock 0 false false := by decide
theorem test_decode_readFrame : decodeWord 0x00000003 = .readFrame 0 false false := by decide
theorem test_decode_send : decodeWord 0x00000004 = .send 0 false false := by decide
theorem test_decode_transactS : decodeWord 0x00000005 = .transactS 0 false := by decide
theorem test_decode_transactG : decodeWord 0x00020005 = .transactG 0 false := by decide
theorem test_decode_decode : decodeWord 0x00000D06 = .decode 0x0D false false := by decide
theorem test_decode_badOp7 : decodeWord 0x00000017 = .badOp7 1 := by decide
theorem test_decode_badOp8F : decodeWord 0x8000000D = .badOp8F 5 0x8000000 := by decide
theorem test_decode_badReserved_low : decodeWord 0x00000016 = .badReserved 6 1 0 0 := by decide
theorem test_decode_badReserved_high : decodeWord 0x00040001 = .badReserved 1 0 0 1 := by decide
theorem test_decode_escReset :
    decodeStream vectorConfig [0x1B, 0x40, 0x41] = .ok (.escReset, [0x41]) := by decide
theorem test_decode_escBitimg :
    decodeStream vectorConfig [0x1B, 0x2A, 0x21, 0x02, 0x00, 0x1B, 0x40, 0x7F] =
      .ok (.escBitimg 0x21 2 [0x1B, 0x40], [0x7F]) := by decide
theorem test_decode_count_high_byte : columnCount 0x00 0x01 = 256 := by decide
theorem test_decode_escLsp :
    decodeStream vectorConfig [0x1B, 0x41, 0x1B, 0x58] = .ok (.escLsp 0x1B, [0x58]) := by decide
theorem test_decode_escFam :
    decodeStream vectorConfig [0x1B, 0x6B, 0x01] = .ok (.escFam 0x01, []) := by decide
theorem test_decode_escPitch :
    decodeStream vectorConfig [0x1B, 0x50, 0x40] = .ok (.escPitch, [0x40]) := by decide
theorem test_decode_escUnrec :
    decodeStream vectorConfig [0x1B, 0x1B, 0x40] = .ok (.escUnrec 0x1B, [0x40]) := by decide
theorem test_decode_txt : decodeStream vectorConfig [0x0D] = .ok (.txt 0x0D, []) := by decide
theorem test_decode_truncated_is_partial :
    decodeStream vectorConfig [0x1B, 0x2A, 0x00, 0x02, 0x00, 0xFF] = .error .partialCommand := by
  decide

/-- R104: `READ_UNTIL s, ACK` is 0x00010001 | s << 8; R103: `STRIP` and `ESC.FAM`. -/
theorem test_encode :
    encode vectorConfig (.readUntil 0x2C true false) = .word 0x00012C01 ∧
    encode vectorConfig (strip [0xFF]) = .bytes [0x1B, 0x2A, 0x00, 0x01, 0x00, 0xFF] ∧
    encode vectorConfig (.escFam 7) = .bytes [0x1B, 0x6B, 0x07] := by decide

/-- The rows of spec/opcode_table.json in the table's numbering. -/
theorem test_table_rows :
    decodeTableWord 32 0x00020005 = some (.transactG 0 false) ∧
    decodeTableWord 16 0x1B2A = some (.escBitimg 0 0 []) ∧
    decodeTableWord 16 0x1B6B = some (.escFam 0) ∧
    decodeTableWord 16 0x1B00 = some (.escUnrec 0) ∧ decodeTableWord 8 0x41 = some (.txt 0x41) := by
  decide

/-! ## One step each, expected values from the rules' examples and spec/95_test_vectors.md -/

/-- R115's example: STATUS 0x56 before, 0x02 after a NOP. -/
theorem test_nop_clears_status :
    let s := { small with
      status := { small.status with done := true, hostErr := true, err := .lengthFormat } }
    s.register 0x04 = 0x56 ∧
    (after (exec (.nop 0 false false) { s.accept ⟨0, false, false⟩ .nop with phase := .nop })).map
      (·.register 0x04) = some 0x02 := by decide

/-- U6, U5: the byte at index TOKEN_CAP is dropped, one below it stored. -/
theorem test_readUntil_stores_below_cap :
    (after (exec (.readUntil 0x0D false false) { reading (.readUntil .loop) [.byte 0x4F] with
        latch := ⟨0x0D, false, false⟩ })).map (fun t => (t.regs.strlen, t.byteAt .strbuf 0)) =
      some (1, 0x4F) := by decide
theorem test_readUntil_overflow_raises :
    (after (exec (.readUntil 0x0D false false) { reading (.readUntil .loop) [.byte 0x0D] with
        latch := ⟨0x0D, false, false⟩, fr := { small.fr with ovf := true } })).map
      (·.register 0x04) = some 0x42 := by decide

/-- B2: sum 6, received 7: CHKSUM 0x0706, STATUS 0x102. -/
theorem test_readBlock_mismatch_is_no_error :
    (after (exec (.readBlock 0 false false) { reading (.readBlock .loop) [.byte 7] with
        fr := { small.fr with sumacc := 6 } })).map
      (fun t => (t.register 0x1C, t.register 0x04)) = some (0x0706, 0x102) := by decide
/-- B6: the byte at index PAYLOAD_CAP is summed and counted, and not stored. -/
theorem test_readBlock_beyond_cap_not_stored :
    (after (exec (.readBlock 0 false false) { reading (.readBlock .loop) [.byte 5] with
        fr := { small.fr with idx := 16, remain := 2, sumacc := 1 } })).map
      (fun t => (t.bufs.payload, t.fr.sumacc, t.regs.paylen)) = some ([], 6, 0) := by decide

/-- F7: "007" is 7; F4: "1a" is LENGTH_FORMAT. -/
theorem test_readFrame_leading_zeros :
    (after (exec (.readFrame 0 false false) { small with
        phase := .readFrame .parse, regs := { small.regs with strlen := 3 }
        bufs := { small.bufs with strbuf := [(0, 0x30), (1, 0x30), (2, 0x37)] } })).map
      (·.regs.blklen) = some 7 := by decide
theorem test_readFrame_bad_digit :
    (after (exec (.readFrame 0 false false) { small with
        phase := .readFrame .parse, regs := { small.regs with strlen := 2, blklen := 7 }
        bufs := { small.bufs with strbuf := [(0, 0x31), (1, 0x61)] } })).map
      (fun t => (t.register 0x04, t.regs.blklen)) = some (0x52, 7) := by decide

/-- S2, S3: the frame 49 44 0D; a short write is WRITE_FAIL. -/
theorem test_send_frame :
    (after (exec (.send 0 false false) { small with
        phase := .send, regs := { small.regs with txlen := 2 }
        bufs := { small.bufs with txbuf := [(0, 0x49), (1, 0x44)] }
        env := { small.env with writes := [.ok 3] } })).map
      (fun t => (t.env.sent, t.register 0x04)) = some ([[0x49, 0x44, 0x0D]], 2) := by decide
/-- H5: TXLEN > TX_CAP is a bad command. -/
theorem test_send_too_long_is_bad :
    (after (exec (.send 0 false false) { small with regs := { small.regs with txlen := 5 } })).map
      (fun t => (t.register 0x04, t.regs.txlen)) = some (0x62, 5) := by decide

/-- T2: an empty ack is not success; STATUS 0x402. -/
theorem test_transactS_empty_ack :
    (after (exec (.transactS 0 false) (reading (.transactS (.ack .start)) [.byte 0x0D]))).map
      (·.register 0x04) = some 0x402 := by decide
/-- T6: only byte 0 of the ack is tested; on success the second string is read next. -/
theorem test_transactS_success_goes_on :
    (after (exec (.transactS 0 false) { reading (.transactS (.ack .loop)) [.byte 0x0D] with
        regs := { small.regs with acklen := 2 }
        bufs := { small.bufs with ackbuf := [(0, 0x30), (1, 0x58)] } })).map
      (fun t => (t.phase, t.status.ackOk)) = some (.transactS (.second .start), true) := by decide

/-- T8: a non-success ack of a graphics transaction leaves PAYLEN and BLKLEN. -/
theorem test_transactG_non_success :
    (after (exec (.transactG 0 false) { reading (.transactG (.ack .loop)) [.byte 0x0D] with
        regs := { small.regs with acklen := 1, paylen := 2, blklen := 3 }
        bufs := { small.bufs with ackbuf := [(0, 0x32)] } })).map
      (fun t => (t.register 0x04, t.regs.paylen, t.regs.blklen)) = some (0x402, 2, 3) := by decide
/-- T11: the third empty answer in a row is READ_TIMEOUT. -/
theorem test_transactG_timeout :
    (after (exec (.transactG 0 false)
        { reading (.transactG (.frame (.block .loop))) [.empty] with
          fr := { small.fr with emptycnt := 2, remain := 2 } })).map
      (·.register 0x04) = some 0x22 := by decide

/-- H6: PAYLEN > PAYLOAD_CAP is a bad command; D1: an empty payload ends at DECPOS 0. -/
theorem test_decode_too_long_is_bad :
    (after (exec (.decode 0 false false) { small with regs := { small.regs with paylen := 17 } })).map
      (·.register 0x04) = some 0x62 := by decide
theorem test_decode_empty_ends :
    (after (exec (.decode 0 false false) (decoding [] 0))).map
      (fun t => (t.register 0x04, t.regs.decpos)) = some (2, 0) := by decide

theorem test_badOp7 :
    (after (exec (.badOp7 0) small)).map (·.register 0x04) = some 0x62 := by decide
theorem test_badOp8F :
    (after (exec (.badOp8F 0 0) small)).map (·.register 0x04) = some 0x62 := by decide
theorem test_badReserved_while_busy :
    (after (exec (.badReserved 6 1 0 0) { small with phase := .send })).map
      (fun t => (t.status.hostErr, t.phase)) = some (true, .send) := by decide

/-- R167: BITMAP and YCUR stay. -/
theorem test_escReset_keeps_ycur :
    (after (exec .escReset (decoding [0x1B, 0x40] 8))).map (fun t => (t.regs.ycur, t.rd.pos)) =
      some (8, 2) := by decide

/-- The law of source §8 (V2): 0xB0 sets rows 0, 2, 3 of column 0. -/
theorem test_escBitimg_bit_order :
    (after (exec (.escBitimg 0 1 [0xB0]) (decoding [0x1B, 0x2A, 0, 1, 0, 0xB0] 0))).map
      (fun t => (t.bufs.bitmap, t.regs.ycur)) =
      some ([(0, 0x80), (4, 0x80), (6, 0x80)], 8) := by decide
/-- V5: rows beyond H are dropped. -/
theorem test_escBitimg_drops_rows :
    (after (exec (.escBitimg 0 1 [0xFF]) (decoding [0x1B, 0x2A, 0, 1, 0, 0xFF] 8))).map
      (fun t => (t.bufs.bitmap, t.regs.ycur)) = some ([], 16) := by decide

theorem test_escLsp_consumes_operand :
    (after (exec (.escLsp 0x1B) (decoding [0x1B, 0x41, 0x1B] 0))).map
      (fun t => (t.rd.pos, t.regs.ycur)) = some (3, 0) := by decide
theorem test_escFam_consumes_operand :
    (after (exec (.escFam 1) (decoding [0x1B, 0x6B, 1] 0))).map
      (fun t => (t.rd.pos, t.regs.unrec)) = some (3, 0) := by decide
theorem test_escPitch_does_not_count :
    (after (exec .escPitch (decoding [0x1B, 0x50] 0))).map
      (fun t => (t.rd.pos, t.regs.unrec)) = some (2, 0) := by decide
theorem test_escUnrec_counts :
    (after (exec (.escUnrec 0x33) (decoding [0x1B, 0x33] 0))).map
      (fun t => (t.rd.pos, t.regs.unrec)) = some (2, 1) := by decide
theorem test_txt_is_dropped :
    (after (exec (.txt 0x41) (decoding [0x41] 0))).map (fun t => (t.rd.pos, t.regs.ycur)) =
      some (1, 0) := by decide

/-! ## The step, the port, the sink -/

/-- The first step after reset runs a table row's instruction: a command word and a stream command. -/
theorem test_step_fetches_command :
    (after (step (State.reset.withFetchWord 32 0x00010D01))).map (fun t => (t.phase, t.latch)) =
      some (.readUntil .start, ⟨0x0D, true, false⟩) := by decide
theorem test_step_fetches_stream_command :
    (after (step (State.reset.withFetchWord 16 0x1B00))).map (fun t => (t.regs.unrec, t.rd.pos)) =
      some (1, 2) := by decide

/-- H12: the CFG registers. -/
theorem test_cfg_registers :
    let s := State.resetWith vectorConfig
    s.register 0x2C = 0x00F000F0 ∧ s.register 0x30 = 0x00400100 ∧ s.register 0x34 = 0x00004000 ∧
    s.register 0x38 = 3 ∧ s.register 0x3C = 0x0000506B := by decide

/-- H10, H13: a write of STATUS, or of BITMAP, is ignored and sets HOST_ERR. -/
theorem test_host_errors :
    (small.hostRegWrite 0x04 1).register 0x04 = 0x04 ∧
    (small.hostMemWrite .bitmap 0 0xFF).register 0x04 = 0x04 := by decide

/-- P4: a write while busy is ignored and sets HOST_ERR. -/
theorem test_busy_write_is_ignored :
    let s := { small with phase := .readUntil .loop }
    ((s.hostRegWrite 0x0C 5).regs.txlen, (s.hostRegWrite 0x0C 5).status.hostErr) = (0, true) := by
  decide

/-- K1: the sink's header. -/
theorem test_sink_header :
    sinkHeader [0x63] { smallConfig with h := 16 } =
      [0x50, 0x34, 0x0A, 0x23, 0x20, 0x63, 0x0A, 0x31, 0x36, 0x20, 0x31, 0x36, 0x0A] := by decide

/-! ## Witnesses: for each statement with hypotheses, a state and operands that meet them all

`decoding` and `reading` put the named phase and bytes into the small state; each clause of a statement
stands at a boundary of its range where it has one. -/

/-- The small state about to take the turn `t`. -/
def taking (t : Turn) : State := small.setTurns [t]

/-- The small state with a frame of four bytes, TX_CAP, and the given answers. -/
def framed (rs : List ReadAnswer) : State :=
  { small with
    regs := { small.regs with txlen := 4 }
    bufs := { small.bufs with txbuf := [(0, 0x49), (3, 0x44)] }
    env := { small.env with writes := [.ok 5, .fail], reads := rs } }

/-- An idle block whose payload is a whole listing: two strips, a text byte, an unrecognised escape. -/
def listing : List Instr := [strip [0xB0], .txt 0x41, .escUnrec 0x33, strip [0x01]]

/-- The small state with the bytes `bs` as its payload. -/
def holding (bs : List Byte) : State :=
  { small with
    regs := { small.regs with paylen := BitVec.ofNat 32 bs.length }
    bufs := { small.bufs with payload := Memory.store [] 0 bs } }

theorem witness_EncodedInstructionDecodes :
    smallConfig.Legal ∧ (Instr.escBitimg 0x21 2 [0x1B, 0x40]).wf smallConfig = true ∧
    (Instr.badReserved 6 0 0x3FF 1).wf smallConfig = true ∧
    (Instr.escUnrec 0x1B).wf smallConfig = true := by decide

theorem witness_StreamItemDecodesBeforeAnyTail :
    smallConfig.Legal ∧ (Instr.escBitimg 0 0 []).wf smallConfig = true ∧
    (Instr.escBitimg 0 0 []).isCommand = false := by decide

theorem witness_DecodedStreamItemReencodes :
    decodeStream smallConfig [0x1B, 0x2A, 0x21, 0x01, 0x00, 0x1B, 0x40] =
      .ok (.escBitimg 0x21 1 [0x1B], [0x40]) := by decide

theorem witness_StepRunsTheCommandWord :
    (taking (.host (.regWrite 32 0 0x00010D01))).env.turns = [.host (.regWrite 32 0 0x00010D01)] ∧
    (taking (.host (.regWrite 32 0 0x00010D01))).phase = .idle := by decide

/-- With no turn left, and with a scheduled turn of the block. -/
theorem witness_StepRunsTheStreamCommand :
    let s := decoding [0x1B, 0x2A, 0x00, 0x01, 0x00, 0xB0] 0
    let s' := s.setTurns [.block, .reset]
    let i := Instr.escBitimg 0 1 [0xB0]
    (s.Inv ∧ s.BlockMoves [] ∧ s.phase = .decode .loop ∧ s.rd.pstate = .text ∧
      i.isCommand = false ∧ i.wf s.cfg = true ∧ s.StreamAt (encode s.cfg i).stream) ∧
    (s'.Inv ∧ s'.BlockMoves [.reset] ∧ s'.phase = .decode .loop ∧ s'.rd.pstate = .text ∧
      i.isCommand = false ∧ i.wf s'.cfg = true ∧ s'.StreamAt (encode s'.cfg i).stream) :=
  ⟨⟨inv_of_check (by decide), .inl ⟨rfl, rfl⟩, rfl, rfl, rfl, by decide, by decide, by decide⟩,
    inv_of_check (by decide), .inr rfl, rfl, rfl, rfl, by decide, by decide, by decide⟩

theorem witness_StepRunsTheLatchedOperation :
    small.BlockMoves [] ∧ (taking .block).BlockMoves [] ∧ small.phase = .idle ∧
    (reading .nop []).phase = .nop ∧
    (reading (.readUntil .start) []).phase = .readUntil .start ∧
    (reading (.readBlock .loop) []).phase = .readBlock .loop ∧
    (reading (.readFrame .parse) []).phase = .readFrame .parse ∧
    (reading .send []).phase = .send ∧
    (reading (.transactS .send) []).phase = .transactS .send ∧
    (reading (.transactG (.ack .start)) []).phase = .transactG (.ack .start) ∧
    (reading (.decode .clear) []).phase = .decode .clear ∧
    ((decoding [0x41] 0).setPstate .operand).rd.pstate ≠ .text ∧
    decodeStream smallConfig (decoding [0x1B, 0x2A] 0).streamBytes = .error .partialCommand ∧
    (decoding [] 0).regs.paylen.toNat ≤ (decoding [] 0).rd.pos.toNat :=
  ⟨.inl ⟨rfl, rfl⟩, .inr rfl, by decide⟩

/-- Each condition of R87, and the words at the limits that are not bad. -/
theorem witness_ExactlyBadWordsAreRejected :
    let s := fun (tx pay : Word) => { small with regs := { small.regs with txlen := tx, paylen := pay } }
    (taking (.host (.regWrite 32 0 0x00000007))).phase = .idle ∧
    BadWord 0x00000010 small ∧ BadWord 0x80000000 small ∧ BadWord 0x00000007 small ∧
    BadWord 0x00020005 (s 5 0) ∧ BadWord 0x00000006 (s 0 17) ∧
    ¬ BadWord 0x00020005 (s 4 0) ∧ ¬ BadWord 0x00000006 (s 0 16) ∧ ¬ BadWord 0x0003FF00 small :=
  ⟨by decide, by decide, by decide, by decide, by decide, by decide, by decide, by decide,
    by decide⟩

theorem witness_BadWordInstructionsReject : small.phase = .idle := by decide

theorem witness_AcceptedOperationsStart :
    let s := { small with regs := { small.regs with txlen := 4, paylen := 16 } }
    s.phase = .idle ∧ s.regs.txlen.toNat ≤ s.cfg.txCap ∧ s.regs.paylen.toNat ≤ s.cfg.payloadCap := by
  decide

theorem witness_NopRunEnds : small.phase = .idle ∧ small.env.turns = [] := by decide

/-- TOKEN_CAP bytes with two empty answers in a row, one below EMPTY_LIMIT, and one byte beyond. -/
theorem witness_DelimitedReadRun :
    let rs := answers [1, 2] ++ [.empty, .empty] ++ answers [3, 4]
    let s := reading .idle (rs ++ ReadAnswer.byte 0x0D :: [ReadAnswer.fail])
    let s' := reading .idle (answers [1, 2, 3, 4, 5] ++ ReadAnswer.byte 0x0D :: [ReadAnswer.fail])
    (s.Inv ∧ s.phase = .idle ∧ s.env.turns = [] ∧ (0x0D : Byte) ∉ ([1, 2, 3, 4] : List Byte) ∧
      rs.filter (· ≠ ReadAnswer.empty) = answers [1, 2, 3, 4] ∧
      paced s.cfg.emptyLimit 0 rs = true ∧
      s.env.reads = rs ++ ReadAnswer.byte 0x0D :: [ReadAnswer.fail]) ∧
    (s'.Inv ∧ s'.phase = .idle ∧ s'.env.turns = [] ∧
      (0x0D : Byte) ∉ ([1, 2, 3, 4, 5] : List Byte) ∧
      (answers [1, 2, 3, 4, 5]).filter (· ≠ ReadAnswer.empty) = answers [1, 2, 3, 4, 5] ∧
      paced s'.cfg.emptyLimit 0 (answers [1, 2, 3, 4, 5]) = true ∧
      s'.env.reads = answers [1, 2, 3, 4, 5] ++ ReadAnswer.byte 0x0D :: [ReadAnswer.fail]) :=
  ⟨⟨inv_of_check (by decide), by decide⟩, inv_of_check (by decide), by decide⟩

/-- No data byte after an empty answer, and one byte beyond PAYLOAD_CAP. -/
theorem witness_ChecksummedBlockRun :
    let s := reading .idle ([.empty] ++ ReadAnswer.byte 0 :: [])
    let s' := { reading .idle (answers (List.replicate 17 9) ++ ReadAnswer.byte 0x99 :: []) with
      regs := { small.regs with blklen := 17 } }
    (s.Inv ∧ s.phase = .idle ∧ s.env.turns = [] ∧ s.regs.blklen.toNat = ([] : List Byte).length ∧
      [ReadAnswer.empty].filter (· ≠ ReadAnswer.empty) = answers [] ∧
      paced s.cfg.emptyLimit 0 [.empty] = true ∧
      s.env.reads = [.empty] ++ ReadAnswer.byte 0 :: []) ∧
    (s'.Inv ∧ s'.phase = .idle ∧ s'.env.turns = [] ∧
      s'.regs.blklen.toNat = (List.replicate 17 (9 : Byte)).length ∧
      (answers (List.replicate 17 9)).filter (· ≠ ReadAnswer.empty) =
        answers (List.replicate 17 9) ∧
      paced s'.cfg.emptyLimit 0 (answers (List.replicate 17 9)) = true ∧
      s'.env.reads = answers (List.replicate 17 9) ++ ReadAnswer.byte 0x99 :: []) :=
  ⟨⟨inv_of_check (by decide), by decide⟩, inv_of_check (by decide), by decide⟩

/-- Four digits, TOKEN_CAP. -/
theorem witness_LengthPrefixedFrameRun :
    let s := reading .idle
      (answers [0x30, 0x30, 0x30, 0x32] ++ ReadAnswer.byte 0x2C :: (answers [7, 8] ++ ReadAnswer.byte 15 :: [ReadAnswer.fail]))
    s.Inv ∧ s.phase = .idle ∧ s.env.turns = [] ∧
    ([0x30, 0x30, 0x30, 0x32] : List Byte).length ≤ s.cfg.tokenCap ∧
    lengthValue [0x30, 0x30, 0x30, 0x32] = some ([7, 8] : List Byte).length ∧
    s.env.reads =
      answers [0x30, 0x30, 0x30, 0x32] ++ ReadAnswer.byte 0x2C :: (answers [7, 8] ++ ReadAnswer.byte 15 :: [ReadAnswer.fail]) :=
  ⟨inv_of_check (by decide), by decide⟩

theorem witness_SendRunWritesTheFrame :
    let s := framed []
    s.phase = .idle ∧ s.env.turns = [] ∧ s.regs.txlen.toNat ≤ s.cfg.txCap ∧
    s.env.writes = .ok 5 :: [.fail] ∧ s.commandFrame = [0x49, 0, 0, 0x44, 0x0D] := by decide

theorem witness_SimpleTransactionRun :
    let s := framed (answers [0x30, 1, 2, 3] ++ ReadAnswer.byte 0x0D :: (answers [4] ++ ReadAnswer.byte 0x0D :: [ReadAnswer.fail]))
    s.Inv ∧ s.phase = .idle ∧ s.env.turns = [] ∧ s.regs.txlen.toNat ≤ s.cfg.txCap ∧
    s.env.writes = .ok s.commandFrame.length :: [WriteAnswer.fail] ∧
    ([0x30, 1, 2, 3] : List Byte).length ≤ s.cfg.tokenCap ∧
    ([4] : List Byte).length ≤ s.cfg.tokenCap ∧
    (0x0D : Byte) ∉ ([1, 2, 3] : List Byte) ∧ (0x0D : Byte) ∉ ([4] : List Byte) ∧
    s.env.reads =
      answers [0x30, 1, 2, 3] ++ ReadAnswer.byte 0x0D :: (answers [4] ++ ReadAnswer.byte 0x0D :: [ReadAnswer.fail]) :=
  ⟨inv_of_check (by decide), by decide⟩

theorem witness_GraphicsTransactionRun :
    let s := framed (answers [0x30] ++ ReadAnswer.byte 0x0D ::
      (answers [0x32] ++ ReadAnswer.byte 0x2C :: (answers [7, 8] ++ ReadAnswer.byte 15 :: [ReadAnswer.fail])))
    s.Inv ∧ s.phase = .idle ∧ s.env.turns = [] ∧ s.regs.txlen.toNat ≤ s.cfg.txCap ∧
    s.env.writes = .ok s.commandFrame.length :: [WriteAnswer.fail] ∧
    ([0x30] : List Byte).length ≤ s.cfg.tokenCap ∧ ([0x32] : List Byte).length ≤ s.cfg.tokenCap ∧
    (0x0D : Byte) ∉ ([] : List Byte) ∧ lengthValue [0x32] = some ([7, 8] : List Byte).length ∧
    s.env.reads = answers [0x30] ++ ReadAnswer.byte 0x0D ::
      (answers [0x32] ++ ReadAnswer.byte 0x2C :: (answers [7, 8] ++ ReadAnswer.byte 15 :: [ReadAnswer.fail])) :=
  ⟨inv_of_check (by decide), by decide⟩

/-- The empty ack, and one of TOKEN_CAP bytes that does not begin with 0x30. -/
theorem witness_NonSuccessAckEndsTheTransaction :
    let s := framed (answers [] ++ ReadAnswer.byte 0x0D :: [ReadAnswer.fail])
    let s' := framed (answers [0x31, 0x30, 0, 0] ++ ReadAnswer.byte 0x0D :: [ReadAnswer.fail])
    (s.Inv ∧ s.phase = .idle ∧ s.env.turns = [] ∧ s.regs.txlen.toNat ≤ s.cfg.txCap ∧
      s.env.writes = .ok s.commandFrame.length :: [WriteAnswer.fail] ∧
      ([] : List Byte).length ≤ s.cfg.tokenCap ∧ (0x0D : Byte) ∉ ([] : List Byte) ∧
      ([] : List Byte).head? ≠ some 0x30 ∧ s.env.reads = answers [] ++ ReadAnswer.byte 0x0D :: [ReadAnswer.fail]) ∧
    (s'.Inv ∧ s'.phase = .idle ∧ s'.env.turns = [] ∧ s'.regs.txlen.toNat ≤ s'.cfg.txCap ∧
      s'.env.writes = .ok s'.commandFrame.length :: [WriteAnswer.fail] ∧
      ([0x31, 0x30, 0, 0] : List Byte).length ≤ s'.cfg.tokenCap ∧
      (0x0D : Byte) ∉ ([0x31, 0x30, 0, 0] : List Byte) ∧
      ([0x31, 0x30, 0, 0] : List Byte).head? ≠ some 0x30 ∧
      s'.env.reads = answers [0x31, 0x30, 0, 0] ++ ReadAnswer.byte 0x0D :: [ReadAnswer.fail]) :=
  ⟨⟨inv_of_check (by decide), by decide⟩, inv_of_check (by decide), by decide⟩

theorem witness_FailedWriteEndsTheTransaction :
    let s := { framed [] with env := { small.env with writes := [.ok 4] } }
    s.phase = .idle ∧ s.env.turns = [] ∧ s.regs.txlen.toNat ≤ s.cfg.txCap ∧
    s.env.writes = .ok 4 :: [] ∧ WriteAnswer.ok 4 ≠ .ok s.commandFrame.length := by decide

/-- One byte beyond TOKEN_CAP. -/
theorem witness_AckOverflowEndsTheTransaction :
    let s := framed (answers [0x30, 1, 2, 3, 4] ++ ReadAnswer.byte 0x0D :: [ReadAnswer.fail])
    s.Inv ∧ s.phase = .idle ∧ s.env.turns = [] ∧ s.regs.txlen.toNat ≤ s.cfg.txCap ∧
    s.env.writes = .ok s.commandFrame.length :: [WriteAnswer.fail] ∧
    s.cfg.tokenCap < ([0x30, 1, 2, 3, 4] : List Byte).length ∧
    (0x0D : Byte) ∉ ([0x30, 1, 2, 3, 4] : List Byte) ∧
    s.env.reads = answers [0x30, 1, 2, 3, 4] ++ ReadAnswer.byte 0x0D :: [ReadAnswer.fail] :=
  ⟨inv_of_check (by decide), by decide⟩

/-- One byte beyond TOKEN_CAP, a carriage return in the length text among them. -/
theorem witness_SecondTokenOverflowEndsTheTransaction :
    let text : List Byte := [0x0D, 1, 2, 3, 4]
    let s := framed (answers [0x30] ++ ReadAnswer.byte 0x0D ::
      (answers text ++ ReadAnswer.byte 0x2C :: [ReadAnswer.fail]))
    s.Inv ∧ s.phase = .idle ∧ s.env.turns = [] ∧ s.regs.txlen.toNat ≤ s.cfg.txCap ∧
    s.env.writes = .ok s.commandFrame.length :: [WriteAnswer.fail] ∧
    ([0x30] : List Byte).length ≤ s.cfg.tokenCap ∧ (0x0D : Byte) ∉ ([] : List Byte) ∧
    (0x2C : Byte) = (if true then 0x2C else 0x0D) ∧ s.cfg.tokenCap < text.length ∧
    (0x2C : Byte) ∉ text ∧
    s.env.reads = answers [0x30] ++ ReadAnswer.byte 0x0D ::
      (answers text ++ ReadAnswer.byte 0x2C :: [ReadAnswer.fail]) :=
  ⟨inv_of_check (by decide), by decide⟩

/-- One byte beyond TOKEN_CAP. -/
theorem witness_LengthTextOverflowEndsTheFrame :
    let text : List Byte := [0x30, 0x30, 0x30, 0x30, 0x31]
    let s := reading .idle (answers text ++ ReadAnswer.byte 0x2C :: [ReadAnswer.fail])
    s.Inv ∧ s.phase = .idle ∧ s.env.turns = [] ∧ s.cfg.tokenCap < text.length ∧
    (0x2C : Byte) ∉ text ∧
    s.env.reads = answers text ++ ReadAnswer.byte 0x2C :: [ReadAnswer.fail] :=
  ⟨inv_of_check (by decide), by decide⟩

/-- 2^32 - 1 is the greatest length; one more, the empty text and a letter have none. -/
theorem witness_LengthTextParses :
    let s := { small with
      phase := .readFrame .parse, regs := { small.regs with strlen := 2 }
      bufs := { small.bufs with strbuf := [(0, 0x30), (1, 0x37)] } }
    [0x30, 0x37].length ≤ s.cfg.tokenCap ∧ s.regs.strlen.toNat = [0x30, 0x37].length ∧
    (∀ i, i < [0x30, 0x37].length → s.byteAt .strbuf i = ([0x30, 0x37] : List Byte).getD i 0) ∧
    s.phase = .readFrame .parse ∧
    (s.enter (.transactG (.frame .parse))).phase = .transactG (.frame .parse) ∧
    lengthValue [0x30, 0x37] = some 7 ∧
    lengthValue [0x34, 0x32, 0x39, 0x34, 0x39, 0x36, 0x37, 0x32, 0x39, 0x35] = some 4294967295 ∧
    lengthValue [0x34, 0x32, 0x39, 0x34, 0x39, 0x36, 0x37, 0x32, 0x39, 0x36] = none ∧
    lengthValue [] = none ∧ lengthValue [0x31, 0x3A] = none := by decide

/-- In a loop, and as the first answer of a block read. -/
theorem witness_ChannelReadFailureEndsTheOperation :
    let s := reading (.transactG (.frame (.block .loop))) [.fail, .empty]
    let s' := reading (.readBlock .start) [.fail, .empty]
    (s.phase.reads = true ∧ s.env.turns = [] ∧ s.env.reads = .fail :: [.empty]) ∧
    (s'.phase.reads = true ∧ s'.env.turns = [] ∧ s'.env.reads = .fail :: [.empty]) := by decide

/-- The last answer in a loop, and with EMPTY_LIMIT = 1 the first answer of a read. -/
theorem witness_EmptyLimitEndsEveryRead :
    let s := (reading (.transactS (.ack .loop)) [.empty, .fail]).setEmptycnt 2
    let s' := { reading (.readFrame (.block .start)) [.empty, .fail] with
      cfg := { smallConfig with emptyLimit := 1 } }
    (s.phase.reads = true ∧ s.env.turns = [] ∧ s.env.reads = .empty :: [.fail] ∧
      (s.enterRead.fr.emptycnt + 1).toNat = s.cfg.emptyLimit) ∧
    (s'.phase.reads = true ∧ s'.env.turns = [] ∧ s'.env.reads = .empty :: [.fail] ∧
      (s'.enterRead.fr.emptycnt + 1).toNat = s'.cfg.emptyLimit) := by decide

theorem witness_EmptyReadsTimeOut :
    let s := reading .idle [.empty, .empty, .empty, .fail]
    s.Inv ∧ s.phase = .idle ∧ s.env.turns = [] ∧
    s.env.reads = List.replicate s.cfg.emptyLimit .empty ++ [ReadAnswer.fail] :=
  ⟨inv_of_check (by decide), by decide⟩

/-- One empty answer below the limit, in a loop and at a start, and a byte. -/
theorem witness_EmptyCountRestartsAtAByte :
    let s := (reading (.readFrame (.block .loop)) [.empty]).setEmptycnt 1
    let s' := (reading (.readFrame (.token .start)) [.empty]).setEmptycnt 9
    let s'' := (reading (.readUntil .loop) [.byte 0x41]).setEmptycnt 2
    (s.Inv ∧ s'.Inv ∧ s''.Inv) ∧
    (s.phase.reads = true ∧ s.env.turns = [] ∧ s.env.reads = .empty :: [] ∧
      (s.enterRead.fr.emptycnt + 1).toNat ≠ s.cfg.emptyLimit) ∧
    (s'.phase.reads = true ∧ s'.env.turns = [] ∧ s'.env.reads = .empty :: [] ∧
      (s'.enterRead.fr.emptycnt + 1).toNat ≠ s'.cfg.emptyLimit) ∧
    (s''.phase.reads = true ∧ s''.env.turns = [] ∧ s''.env.reads = .byte 0x41 :: []) :=
  ⟨⟨inv_of_check (by decide), inv_of_check (by decide), inv_of_check (by decide)⟩, by decide⟩

theorem witness_UnansweredReadHangs :
    let s := reading (.readBlock .start) []
    s.phase.reads = true ∧ s.env.turns = [] ∧ s.env.reads = [] := by decide

/-- The last pixel, and the first outside. -/
theorem witness_PixelWriteChangesOnePixel :
    smallConfig.Legal ∧ Memory.wf [(15, 0x01)] = true ∧ (15 < smallConfig.w ∧ 7 < smallConfig.h) ∧
    ¬ (16 < smallConfig.w ∧ 7 < smallConfig.h) := by decide

/-- No column, and one beyond W. -/
theorem witness_BitImagePaintsItsColumns :
    (decoding [] 8).Inv ∧ ([] : List Byte).length = (0 : BitVec 16).toNat ∧
    (List.replicate 17 (0xFF : Byte)).length = (17 : BitVec 16).toNat :=
  ⟨inv_of_check (by decide), by decide⟩

theorem witness_StreamCommandIsItsBytes :
    let s := decoding [0x1B, 0x33] 8
    let i := Instr.escUnrec 0x33
    s.Inv ∧ s.phase = .decode .loop ∧ s.rd.pstate = .text ∧
    i.isCommand = false ∧ i.wf s.cfg = true ∧ s.StreamAt (encode s.cfg i).stream :=
  ⟨inv_of_check (by decide), by decide, by decide, by decide, by decide, by decide, by decide⟩

/-- Cut after the escape byte, and one byte before the end with a column received. -/
theorem witness_TruncatedCommandIsMalformed :
    let i := Instr.escBitimg 0 2 [0xB0, 0x01]
    let s := decoding [0x1B] 0
    let s' := decoding [0x1B, 0x2A, 0x00, 0x02, 0x00, 0xB0] 0
    (s.Inv ∧ s.env.turns = [] ∧ s.phase = .decode .loop ∧ s.rd.pstate = .text ∧ i.isCommand = false ∧
      i.wf s.cfg = true ∧ 0 < 1 ∧ 1 < i.length ∧ s.rd.pos.toNat + 1 = s.regs.paylen.toNat ∧
      s.StreamAt ((encode s.cfg i).stream.take 1)) ∧
    (s'.Inv ∧ s'.env.turns = [] ∧ s'.phase = .decode .loop ∧ s'.rd.pstate = .text ∧ i.isCommand = false ∧
      i.wf s'.cfg = true ∧ 0 < 6 ∧ 6 < i.length ∧ s'.rd.pos.toNat + 6 = s'.regs.paylen.toNat ∧
      s'.StreamAt ((encode s'.cfg i).stream.take 6)) :=
  ⟨⟨inv_of_check (by decide), rfl, by decide, by decide, by decide, by decide, by decide, by decide,
      by decide, by decide, by decide⟩,
    inv_of_check (by decide), rfl, by decide, by decide, by decide, by decide, by decide, by decide,
      by decide, by decide, by decide⟩

theorem witness_DecodeClearsAndReports :
    (reading (.decode .clear) []).phase = .decode .clear ∧
    ((decoding [] 0).phase = .decode .loop ∧
      (decoding [] 0).regs.paylen.toNat ≤ (decoding [] 0).rd.pos.toNat ∧
      (decoding [] 0).rd.pstate = .text) ∧
    ((decoding [] 0).setPstate .esc).rd.pstate ≠ .text := by decide

/-- PAYLEN = PAYLOAD_CAP. -/
theorem witness_DecodeAlwaysEnds :
    let s := holding (List.replicate 16 0x1B)
    s.Inv ∧ s.phase = .idle ∧ s.env.turns = [] ∧ s.regs.paylen.toNat ≤ s.cfg.payloadCap :=
  ⟨inv_of_check (by decide), by decide⟩

theorem witness_ListingDecodesToItsPicture :
    let s := holding (assemble smallConfig listing)
    s.Inv ∧ s.phase = .idle ∧ s.env.turns = [] ∧
    (∀ i ∈ listing, i.isCommand = false ∧ i.wf s.cfg = true) ∧
    s.regs.paylen.toNat = (assemble s.cfg listing).length ∧
    s.regs.paylen.toNat ≤ s.cfg.payloadCap ∧
    (∀ j, j < s.regs.paylen.toNat → s.byteAt .payload j = (assemble s.cfg listing).getD j 0) :=
  ⟨inv_of_check (by decide), by decide, by decide, by decide, by decide, by decide, by decide⟩

theorem witness_DecodeDependsOnlyOnThePayload :
    let s := holding [0x41]
    let s' := { holding [0x41] with
      bufs := { (holding [0x41]).bufs with bitmap := [(3, 0xFF)] }
      regs := { (holding [0x41]).regs with ycur := 8 } }
    ∃ s1 s1' t,
      (s.Inv ∧ s'.Inv ∧ s.phase = .idle ∧ s'.phase = .idle ∧ s.env.turns = [] ∧
        s'.env.turns = [] ∧ s.cfg = s'.cfg ∧ s.regs.paylen = s'.regs.paylen ∧
        s.bufs.payload = s'.bufs.payload ∧ s.regs.paylen.toNat ≤ s.cfg.payloadCap) ∧
      exec (.decode 0 false false) s = .next s1 ∧ exec (.decode 1 true true) s' = .next s1' ∧
      core.run 3 s1 = .next t ∧ t.phase = .idle :=
  ⟨_, _, _, ⟨inv_of_check (by decide), inv_of_check (by decide), by decide⟩, rfl, rfl, rfl, rfl⟩

/-- The last offset of the interface, and a register's. -/
theorem witness_IdleRegisterReads :
    (taking (.host (.regRead 32 0xFFC))).phase = .idle ∧ 0xFFC % 4 = 0 ∧ 0xFFC < 0x1000 ∧
    (taking (.host (.regRead 32 0xFFC))).env.turns = .host (.regRead 32 0xFFC) :: [] ∧
    (taking (.host (.regRead 32 0x1C))).env.turns = .host (.regRead 32 0x1C) :: [] := by decide

theorem witness_IdleRegisterWrites :
    (taking (.host (.regWrite 32 0x18 0xFFFFFFFF))).phase = .idle ∧ 0x18 % 4 = 0 ∧ 0x18 < 0x1000 ∧
    (0x18 : Nat) ≠ 0 ∧
    (taking (.host (.regWrite 32 0x18 0xFFFFFFFF))).env.turns =
      .host (.regWrite 32 0x18 0xFFFFFFFF) :: [] ∧
    (taking (.host (.regWrite 32 0xFFC 0))).env.turns = .host (.regWrite 32 0xFFC 0) :: [] ∧
    0xFFC % 4 = 0 ∧ 0xFFC < 0x1000 ∧ (0xFFC : Nat) ≠ 0 := by decide

theorem witness_BusyHostAccesses :
    ((taking (.host (.regWrite 32 0 6))).enter .send).phase ≠ .idle ∧
    ((taking (.host (.regWrite 32 0 6))).enter .send).env.turns = .host (.regWrite 32 0 6) :: [] ∧
    ((taking (.host (.memWrite .payload 0 6))).enter .send).env.turns =
      .host (.memWrite .payload 0 6) :: [] ∧
    ((taking (.host (.regRead 32 4))).enter .send).env.turns = .host (.regRead 32 4) :: [] ∧
    ((taking (.host (.memRead .bitmap 0))).enter .send).env.turns =
      .host (.memRead .bitmap 0) :: [] := by decide

/-- The last byte of a buffer, and the first outside. -/
theorem witness_IdleBufferAccesses :
    (taking (.host (.memRead .bitmap 15))).Inv ∧ small.phase = .idle ∧
    15 < Space.bitmap.size smallConfig ∧ Space.bitmap.size smallConfig ≤ 16 ∧
    (taking (.host (.memRead .bitmap 15))).env.turns = .host (.memRead .bitmap 15) :: [] ∧
    (taking (.host (.memWrite .txbuf 3 1))).env.turns = .host (.memWrite .txbuf 3 1) :: [] ∧
    3 < Space.txbuf.size smallConfig ∧ ¬ 4 < Space.txbuf.size smallConfig :=
  ⟨inv_of_check (by decide), by decide⟩

theorem witness_ForeignRegisterAccessIsRefused :
    (taking (.host (.regRead 16 4))).env.turns = .host (.regRead 16 4) :: [] ∧ (16 : Nat) ≠ 32 ∧
    6 % 4 ≠ 0 ∧ 0x1000 ≤ 0x1000 ∧
    (taking (.host (.regWrite 32 0x1000 0))).env.turns = .host (.regWrite 32 0x1000 0) :: [] := by
  decide

theorem witness_SinkBodyIsTheBitmap : small.cfg.Legal := by decide

theorem witness_ResetStepRestoresEverything :
    ((taking .reset).enter .send).env.turns = .reset :: [] := by decide

/-- The hypothesis of both statements about reset. -/
theorem witness_InvariantHoldsAtReset : smallConfig.Legal := by decide

theorem witness_DecodeInvariantHoldsAtReset : vectorConfig.Legal := by decide

/-- A step of a running decode, from a state of both invariants. -/
theorem witness_EveryStepKeepsTheInvariant :
    (decoding [0x41] 0).Inv ∧
    ∃ t, step (decoding [0x41] 0) = .next t := ⟨inv_of_check (by decide), _, rfl⟩

theorem witness_EveryStepKeepsTheDecodeInvariant :
    (decoding [0x41] 0).Inv ∧ (decoding [0x41] 0).DecodeInv ∧
    ∃ t, step (decoding [0x41] 0) = .next t :=
  ⟨inv_of_check (by decide),
    ⟨fun h => absurd h (by decide), fun _ => trivial, fun _ => by decide, fun _ => by decide⟩, _, rfl⟩

theorem witness_NoRunEverFaults : (decoding [0x1B, 0x2A] 0).Inv := inv_of_check (by decide)

theorem witness_DecodeCountersAreBounded :
    (decoding [0x41] 0).Inv ∧ (decoding [0x41] 0).DecodeInv ∧
    (decoding [0x41] 0).phase = .decode .loop :=
  ⟨inv_of_check (by decide),
    ⟨fun h => absurd h (by decide), fun _ => trivial, fun _ => by decide, fun _ => by decide⟩,
    by decide⟩

theorem witness_NoStepChangesTheConfiguration : ∃ t, step (taking .reset) = .next t := ⟨_, rfl⟩

theorem witness_OnlyAnAcceptedCommandLeavesIdle :
    (taking (.host (.regWrite 32 0 2))).phase = .idle ∧
    ∃ t, step (taking (.host (.regWrite 32 0 2))) = .next t ∧ t.phase ≠ .idle :=
  ⟨by decide, _, rfl, by decide⟩

/-- A decode, and a block read. -/
theorem witness_RunningOperationsKeepTheirInputs :
    ((decoding [0x41] 0).phase ≠ .idle ∧ (decoding [0x41] 0).env.turns.head? ≠ some .reset ∧
      (decoding [0x41] 0).phase.decodes = true ∧ ∃ t, step (decoding [0x41] 0) = .next t) ∧
    ((reading (.readBlock .start) [.byte 1]).phase ≠ .idle ∧
      (reading (.readBlock .start) [.byte 1]).env.turns.head? ≠ some .reset ∧
      (reading (.readBlock .start) [.byte 1]).phase = .readBlock .start ∧
      ∃ t, step (reading (.readBlock .start) [.byte 1]) = .next t) :=
  ⟨⟨by decide, by decide, by decide, _, rfl⟩, by decide, by decide, by decide, _, rfl⟩

theorem witness_OnlyDecodeWritesTheBitmap :
    (reading (.readBlock .loop) [.byte 1]).phase.decodes = false ∧
    (reading (.readBlock .loop) [.byte 1]).env.turns.head? ≠ some .reset ∧
    ∃ t, step (reading (.readBlock .loop) [.byte 1]) = .next t := ⟨by decide, by decide, _, rfl⟩

theorem witness_EndedOperationIsDone :
    (reading .nop []).busy = true ∧ (reading .nop []).env.turns.head? ≠ some .reset ∧
    ∃ t, step (reading .nop []) = .next t ∧ t.busy = false :=
  ⟨by decide, by decide, _, rfl, by decide⟩

/-- A read, and a write. -/
theorem witness_AtMostOneChannelAccessPerStep :
    (∃ t, step (reading (.readBlock .loop) [.byte 1]) = .next t) ∧
    ∃ t, step ((framed []).enter .send) = .next t := ⟨⟨_, rfl⟩, _, rfl⟩

end Sys2Proof.Tests
end

/-! PROOFS. The statements of spec/00_scope.md: sample codes, the instruction the block's turn runs, the
invariant at reset, and what a step does to the configuration and to the channel. -/

namespace Sys2Proof.Machine

/-! ## Sample codes (O5) -/

/-- A selector of class UNREC makes a two-byte command, whatever follows (R98, R102). -/
theorem decodeStream_unrec {c : Config} {sel : Byte} (h : selectorClass c sel = .unrec)
    (rest : List Byte) :
    decodeStream c (escByte :: sel :: rest) = .ok (.escUnrec sel, rest) := by
  simp [decodeStream, h]

/-- A bit-image command takes the nx data bytes its count names, when they are there (R99). -/
theorem decodeStream_bitImage (c : Config) (m nl nh : Byte) {ds : List Byte}
    (h : (columnCount nl nh).toNat ≤ ds.length) :
    decodeStream c (escByte :: 0x2A :: m :: nl :: nh :: ds) =
      .ok (.escBitimg m (columnCount nl nh) (ds.take (columnCount nl nh).toNat),
        ds.drop (columnCount nl nh).toNat) := by
  simp [decodeStream, selectorClass, h]

/-- The escape byte is no selector of the reference configuration (notes/assumptions/3.md). -/
theorem selectorClass_reference_escByte : selectorClass Config.reference escByte = .unrec := by
  decide

/-- Settles O5: the words by evaluation, the bytes by the decoder's equations. -/
theorem sampleCodesDecode : Obligations.SampleCodesDecode :=
  ⟨by decide, by decide, by decide, by decide, by decide,
    decodeStream_bitImage Config.reference 0x00 0x01 0x00 (ds := [0xFF, 0x1B]) (by decide),
    decodeStream_unrec selectorClass_reference_escByte [0x40]⟩

/-! ## The instruction the block's turn runs (O8) -/

theorem State.setTurns_eq_self {s : State} {ts : List Turn} (h : s.env.turns = ts) :
    s.setTurns ts = s := by
  subst h; rfl

/-- The schedule has no say in what the block runs. -/
@[simp] theorem State.nextInstr_setTurns (s : State) (ts : List Turn) :
    (s.setTurns ts).nextInstr = s.nextInstr := rfl

/-- A turn of the block, scheduled or by an exhausted schedule, is `blockTurn` (R73). -/
theorem step_of_blockMoves {s : State} {ts : List Turn} (h : s.BlockMoves ts) :
    step s = blockTurn (s.setTurns ts) := by
  rcases h with ⟨hs, rfl⟩ | hs
  · simp only [step, hs, State.setTurns_eq_self hs]
  · simp only [step, hs]

theorem step_of_nextInstr_none {s : State} {ts : List Turn} (h : s.BlockMoves ts)
    (hi : s.nextInstr = none) : step s = .next (s.setTurns ts) := by
  simp only [step_of_blockMoves h, blockTurn, State.nextInstr_setTurns, hi]

theorem step_of_nextInstr {s : State} {ts : List Turn} {i : Instr} (h : s.BlockMoves ts)
    (hi : s.nextInstr = some i) : step s = exec i (s.setTurns ts) := by
  simp only [step_of_blockMoves h, blockTurn, State.nextInstr_setTurns, hi]

/-- Inside a command no whole command stands at POS. -/
theorem State.nextCommand_inside {s : State} (h : s.rd.pstate ≠ .text) : s.nextCommand = none :=
  if_neg h

/-- A stream that decodes to no item, cut short or at its end, has no command at POS (R96). -/
theorem State.nextCommand_of_error {s : State} {e : DecodeError}
    (h : decodeStream s.cfg s.streamBytes = .error e) : s.nextCommand = none := by
  simp [State.nextCommand, h]

/-- At the end of the payload no byte of the stream is left (R76). -/
theorem State.streamBytes_at_end {s : State} (h : s.regs.paylen.toNat ≤ s.rd.pos.toNat) :
    s.streamBytes = [] := by
  simp only [State.streamBytes, List.map_eq_nil_iff, List.range'_eq_nil_iff]
  omega

theorem State.nextCommand_at_end {s : State} (h : s.regs.paylen.toNat ≤ s.rd.pos.toNat) :
    s.nextCommand = none :=
  State.nextCommand_of_error (e := .endOfStream) (by rw [State.streamBytes_at_end h]; rfl)

/-- In DECODE's loop with no whole command at POS, the block runs its own DECODE word. -/
theorem State.nextInstr_decodeLoop {s : State} (hp : s.phase = .decode .loop)
    (hn : s.nextCommand = none) : s.nextInstr = some s.decodeInstr := by
  simp [State.nextInstr, hp, hn, State.decodeInstr]

/-- Settles O8: each clause names what `nextInstr` is in its phase. -/
theorem stepRunsTheLatchedOperation : Obligations.StepRunsTheLatchedOperation := by
  intro s ts hb
  refine ⟨fun hp => step_of_nextInstr_none hb ?_, fun hp => step_of_nextInstr hb ?_,
    fun t hp => step_of_nextInstr hb ?_, fun p hp => step_of_nextInstr hb ?_,
    fun p hp => step_of_nextInstr hb ?_, fun hp => step_of_nextInstr hb ?_,
    fun p hp => step_of_nextInstr hb ?_, fun p hp => step_of_nextInstr hb ?_,
    fun hp => step_of_nextInstr hb ?_,
    fun hp hs => step_of_nextInstr hb (State.nextInstr_decodeLoop hp (State.nextCommand_inside hs)),
    fun e hp he =>
      step_of_nextInstr hb (State.nextInstr_decodeLoop hp (State.nextCommand_of_error he)),
    fun hp hl => step_of_nextInstr hb (State.nextInstr_decodeLoop hp (State.nextCommand_at_end hl))⟩
  all_goals simp only [State.nextInstr, hp, State.decodeInstr]

/-! ## The invariant at reset (O43) -/

/-- The reference parameters are legal, whatever the OPEN value of EMPTY_LIMIT (R8, R9). -/
theorem configReference_legal : Config.reference.Legal := by
  have hlimit : 1 ≤ Config.reference.emptyLimit ∧ Config.reference.emptyLimit ≤ 2 ^ 32 - 1 := by
    simp only [Config.reference]
    omega
  exact ⟨by decide, by decide, by decide, by decide, by decide, hlimit, by decide⟩

/-- After reset every buffer is the empty list. -/
theorem State.resetWith_get (c : Config) (sp : Space) : (State.resetWith c).bufs.get sp = [] := by
  cases sp <;> rfl

/-- After reset the block is idle and every register and flag is 0, so only the configuration's own
legality is left to assume. -/
theorem State.resetWith_inv {c : Config} (hc : c.Legal) : (State.resetWith c).Inv where
  cfgLegal := hc
  bufsCanonical sp := by rw [State.resetWith_get]; rfl
  bufsWithin sp := by rw [State.resetWith_get]; rfl
  acklenFits := Nat.zero_le _
  strlenFits := Nat.zero_le _
  chkOkValid h := nomatch h
  ackOkValid h := nomatch h
  busyNotDone h := nomatch h
  busyNoErr h := nomatch h
  frameFits h := nomatch h
  streamFits h := nomatch h
  posFits h := nomatch h
  kindLatched _ h := nomatch h
  ycurAligned := rfl

/-- Settles O43. -/
theorem invariantHoldsAtReset : Obligations.InvariantHoldsAtReset :=
  ⟨fun _ hc => State.resetWith_inv hc, State.resetWith_inv configReference_legal⟩

/-! ## What a step leaves, over its ways to answer -/

/-- `P` holds of the state a `ChRead` leaves, if it was answered. -/
def ByteRead.All (P : State → Prop) : ByteRead → Prop
  | .wait => True
  | .ended t | .again t | .byte _ t => P t

/-- `P` holds of the state a step of a procedure leaves, if the step is taken. -/
def Progress.All {π : Type} (P : State → Prop) : Progress π → Prop
  | .wait => True
  | .ended t | .more _ t | .done t => P t

/-- `P` holds of the state a step of a procedure leaves, if it is taken and does not fault. -/
def Leaves {π : Type} (P : State → Prop) (p : Except Fault (Progress π)) : Prop :=
  ∀ g, p = .ok g → g.All P

theorem Leaves.mono {π : Type} {P Q : State → Prop} {p : Except Fault (Progress π)}
    (h : Leaves P p) (hPQ : ∀ t, P t → Q t) : Leaves Q p := by
  intro g hg
  have hP := h g hg
  cases g with
  | wait => trivial
  | ended t => exact hPQ t hP
  | more q t => exact hPQ t hP
  | done t => exact hPQ t hP

/-- What a procedure leaves, its caller leaves, if the caller's continuation does. -/
theorem Leaves.within {π ρ : Type} {P : State → Prop} {into : π → ρ}
    {ret : State → Except Fault (Progress ρ)} {p : Except Fault (Progress π)} (hp : Leaves P p)
    (hret : ∀ u, P u → Leaves P (ret u)) : Leaves P (Progress.within into ret p) := by
  intro g h
  rcases Progress.within_ok h with ⟨-, rfl⟩ | ⟨t, ht, rfl⟩ | ⟨q, t, ht, rfl⟩ | ⟨t, ht, hr⟩
  · trivial
  · exact hp _ ht
  · exact hp _ ht
  · exact hret t (hp _ ht) g hr

/-- What the body of an operation leaves, its step leaves, for a property of the state before it that
PHASE and DONE have no part in. -/
theorem Leaves.of_conclude {π : Type} {P : State → Prop} {s t : State} {into : π → Phase}
    {p : Except Fault (Progress π)} (hp : Leaves P p) (h : conclude s into p = .next t)
    (hs : P s) (henter : ∀ u q, P u → P (u.enter q)) (hfinish : ∀ u, P u → P u.finish) : P t := by
  rcases conclude_next h with ⟨-, rfl⟩ | ht | ⟨q, u, hu, rfl⟩ | ⟨u, hu, rfl⟩
  · exact hs
  · exact hp _ ht
  · exact henter _ _ (hp _ hu)
  · exact hfinish _ (hp _ hu)

/-! ## What a step does outside the block's registers and buffers -/

/-- The configuration and the other agents are as before. -/
def State.SameOutside (s t : State) : Prop := t.cfg = s.cfg ∧ t.env = s.env

/-- One `ChRead` and nothing else outside the block: its answer is used up (R226). -/
def State.TakesRead (s t : State) : Prop :=
  t.cfg = s.cfg ∧ ∃ a rs, s.env.reads = a :: rs ∧ t.env = { s.env with reads := rs }

/-- One `ChWrite` of the command frame and nothing else outside the block (R137, R226). -/
def State.TakesWrite (s t : State) : Prop :=
  t.cfg = s.cfg ∧ ∃ a ws, s.env.writes = a :: ws ∧
    t.env = { s.env with writes := ws, sent := s.commandFrame :: s.env.sent }

/-- At most one channel access, and nothing else outside the block. -/
def State.Access (s t : State) : Prop := s.SameOutside t ∨ s.TakesRead t ∨ s.TakesWrite t

theorem State.SameOutside.refl (s : State) : s.SameOutside s := ⟨rfl, rfl⟩

theorem State.SameOutside.trans {s t u : State} (h : s.SameOutside t) (h' : t.SameOutside u) :
    s.SameOutside u := ⟨h'.1.trans h.1, h'.2.trans h.2⟩

theorem State.SameOutside.access {s t : State} (h : s.SameOutside t) : s.Access t := .inl h

theorem State.TakesRead.access {s t : State} (h : s.TakesRead t) : s.Access t := .inr (.inl h)

theorem State.TakesWrite.access {s t : State} (h : s.TakesWrite t) : s.Access t := .inr (.inr h)

theorem State.TakesRead.of_sameOutside {s s' t : State} (h : s.SameOutside s')
    (ht : s'.TakesRead t) : s.TakesRead t := by
  obtain ⟨hcfg, henv⟩ := h
  simpa only [State.TakesRead, hcfg, henv] using ht

theorem State.TakesRead.then_sameOutside {s t u : State} (h : s.TakesRead t)
    (hu : t.SameOutside u) : s.TakesRead u := by
  obtain ⟨hcfg, henv⟩ := hu
  simpa only [State.TakesRead, hcfg, henv] using h

theorem State.Access.then_sameOutside {s t u : State} (h : s.Access t) (hu : t.SameOutside u) :
    s.Access u := by
  obtain ⟨hcfg, henv⟩ := hu
  simpa only [State.Access, State.SameOutside, State.TakesRead, State.TakesWrite, hcfg, henv] using h

theorem State.Access.cfg {s t : State} (h : s.Access t) : t.cfg = s.cfg := by
  rcases h with h | h | h <;> exact h.1

theorem Leaves.access {π : Type} {s : State} {p : Except Fault (Progress π)}
    (h : Leaves s.TakesRead p) : Leaves s.Access p := h.mono fun _ => State.TakesRead.access

/-- The step of an operation makes the accesses of its body; a wait makes none. -/
theorem conclude_access {π : Type} {s t : State} {into : π → Phase}
    {p : Except Fault (Progress π)} (hp : Leaves s.Access p) (h : conclude s into p = .next t) :
    s.Access t :=
  hp.of_conclude h (State.SameOutside.refl s).access
    (fun _ _ hu => hu.then_sameOutside ⟨rfl, rfl⟩) (fun _ hu => hu.then_sameOutside ⟨rfl, rfl⟩)

/-! ## The frame reader's procedures -/

theorem State.startToken_sameOutside (s : State) (ack : Bool) :
    s.SameOutside (s.startToken ack) := ⟨s.startToken_cfg ack, s.startToken_env ack⟩

theorem State.storeToken_sameOutside {s t : State} {ack : Bool} {b : Byte}
    (h : s.storeToken ack b = .ok t) : s.SameOutside t := by
  rcases State.storeToken_ok h with ⟨-, rfl⟩ | ⟨-, rfl⟩ <;> simp [State.SameOutside]

theorem State.storeBlock_sameOutside {s t : State} {b : Byte} (h : s.storeBlock b = .ok t) :
    s.SameOutside t := by
  rcases State.storeBlock_ok h with ⟨-, rfl⟩ | ⟨-, rfl⟩ <;> simp [State.SameOutside]

theorem State.recordAck_sameOutside {s t : State} (h : s.recordAck = .ok t) :
    s.SameOutside t := by
  obtain rfl := State.recordAck_ok h
  exact ⟨rfl, rfl⟩

/-- An answered `ReadByte` uses up one read answer (R117). -/
theorem readByte_takesRead (s : State) : (readByte s).All s.TakesRead := by
  rcases readByte_cases s with ⟨-, h⟩ | ⟨b, rs, hr, h⟩ | ⟨rs, hr, h⟩ | ⟨rs, hr, -, h⟩ |
    ⟨rs, hr, -, h⟩ <;> rw [h]
  · trivial
  all_goals exact ⟨rfl, _, rs, hr, rfl⟩

/-- One step of `ReadToken` is one `ChRead` (R118). -/
theorem tokenStep_takesRead (p : TokenPhase) (stop : Byte) (ack : Bool) (s : State) :
    Leaves s.TakesRead (tokenStep p stop ack s) := by
  have loop : ∀ s : State, Leaves s.TakesRead (tokenStep .loop stop ack s) := by
    intro s g h
    have hread := readByte_takesRead s
    rcases tokenStep_loop_ok h with ⟨-, rfl⟩ | ⟨u, hu, rfl⟩ | ⟨u, hu, rfl⟩ | ⟨u, hu, rfl⟩ |
      ⟨b, u, v, hu, -, hv, rfl⟩
    · trivial
    all_goals rw [hu] at hread
    · exact hread
    · exact hread
    · split
      · exact hread.then_sameOutside ⟨rfl, rfl⟩
      · exact hread
    · exact hread.then_sameOutside (State.storeToken_sameOutside hv)
  cases p with
  | loop => exact loop s
  | start => exact (loop _).mono fun _ => .of_sameOutside (s.startToken_sameOutside ack)

/-- One step of `ReadBlock` is one `ChRead` (R124). -/
theorem blockStep_takesRead (p : BlockPhase) (s : State) :
    Leaves s.TakesRead (blockStep p s) := by
  have loop : ∀ s : State, Leaves s.TakesRead (blockStep .loop s) := by
    intro s g h
    have hread := readByte_takesRead s
    rcases blockStep_loop_ok h with ⟨-, rfl⟩ | ⟨u, hu, rfl⟩ | ⟨u, hu, rfl⟩ | ⟨c, u, hu, -, rfl⟩ |
      ⟨b, u, v, hu, -, hv, rfl⟩
    · trivial
    all_goals rw [hu] at hread
    · exact hread
    · exact hread
    · exact hread.then_sameOutside ⟨rfl, rfl⟩
    · exact hread.then_sameOutside (State.storeBlock_sameOutside hv)
  cases p with
  | loop => exact loop s
  | start => exact (loop s.startBlock).mono fun _ => .of_sameOutside ⟨rfl, rfl⟩

/-- Many bytes, when none faults, are the bytes the buffer holds, in order. -/
theorem State.blockReadMany_ok {s : State} {sp : Space} {n i : Nat} {bs : List Byte}
    (h : s.blockReadMany sp n i = .ok bs) : bs = (List.range' i n).map (s.byteAt sp) := by
  induction n generalizing i bs with
  | zero => cases h; rfl
  | succ n ih =>
    simp only [State.blockReadMany] at h
    split at h
    · cases h
    · rename_i b hb
      obtain ⟨-, rfl⟩ := State.blockRead_ok.mp hb
      split at h
      · cases h
      · rename_i hbs
        cases h
        rw [ih hbs, List.range'_succ, List.map_cons]

/-- The frame the block writes, when building it does not fault, is the command frame (R91). -/
theorem State.txFrame_ok {s : State} {frame : List Byte} (h : s.txFrame = .ok frame) :
    frame = s.commandFrame := by
  unfold State.txFrame at h
  split at h
  · cases h
  · rename_i bs hbs
    cases h
    rw [State.blockReadMany_ok hbs, State.commandFrame, List.range_eq_range']
    rfl

/-- The one step of `SendCommand` is one `ChWrite` of the command frame (R137). -/
theorem sendCommand_takesWrite (s : State) : Leaves s.TakesWrite (sendCommand s) := by
  intro g h
  obtain ⟨frame, hf, hg⟩ := sendCommand_ok h
  obtain rfl := State.txFrame_ok hf
  rcases hg with ⟨-, rfl⟩ | ⟨ws, hw, rfl⟩ | ⟨a, ws, hw, -, rfl⟩
  · trivial
  · exact ⟨rfl, _, ws, hw, rfl⟩
  · exact ⟨rfl, a, ws, hw, rfl⟩

/-! ## The operations' bodies -/

/-- A continuation that only moves to another phase, or returns, keeps what the procedure left. -/
theorem leaves_ok {π : Type} {P : State → Prop} {g : Progress π} (h : g.All P) :
    Leaves P (.ok g) := by
  rintro _ ⟨⟩
  exact h

/-- READ_FRAME's body reads in its token and its block, and parses with no channel access (R131). -/
theorem frameStep_access (p : FramePhase) (s : State) : Leaves s.Access (frameStep p s) := by
  cases p with
  | token t => exact (tokenStep_takesRead t comma false s).access.within fun _ hu => leaves_ok hu
  | block b => exact (blockStep_takesRead b s).access.within fun _ hu => leaves_ok hu
  | parse =>
    intro g h
    simp only [frameStep] at h
    split at h <;> cases h <;> exact State.SameOutside.access ⟨rfl, rfl⟩

/-- The ack token is read, and recorded with no channel access (R140 to R142). -/
theorem ackStep_access {π : Type} (t : TokenPhase) (into : TokenPhase → π) (onSuccess : π)
    (s : State) : Leaves s.Access (ackStep t into onSuccess s) := by
  refine (tokenStep_takesRead t carriageReturn true s).access.within fun u hu g hg => ?_
  split at hg
  · cases hg
  · rename_i v hv
    have hav := hu.then_sameOutside (State.recordAck_sameOutside hv)
    cases hg
    split <;> exact hav

theorem sendCommand_access (s : State) : Leaves s.Access (sendCommand s) :=
  (sendCommand_takesWrite s).mono fun _ => State.TakesWrite.access

theorem simpleStep_access (p : SimplePhase) (s : State) : Leaves s.Access (simpleStep p s) := by
  cases p with
  | send => exact (sendCommand_access s).within fun _ hu => leaves_ok hu
  | ack t => exact ackStep_access t _ _ s
  | second t =>
    exact (tokenStep_takesRead t carriageReturn false s).access.within fun _ hu => leaves_ok hu

theorem graphicsStep_access (p : GraphicsPhase) (s : State) :
    Leaves s.Access (graphicsStep p s) := by
  cases p with
  | send => exact (sendCommand_access s).within fun _ hu => leaves_ok hu
  | ack t => exact ackStep_access t _ _ s
  | frame f => exact (frameStep_access f s).within fun _ hu => leaves_ok hu

/-! ## The raster decoder -/

/-- `DecodeStep` makes no channel access (R162, R180). -/
theorem decodeStep_sameOutside {b : Byte} {s t : State} (h : decodeStep b s = .ok t) :
    s.SameOutside t := by
  cases hp : s.rd.pstate <;> simp only [decodeStep, hp] at h
  case text | esc | biNh => split at h <;> cases h <;> exact ⟨rfl, rfl⟩
  case biData =>
    split at h
    · cases h
    · split at h <;> cases h <;> exact ⟨rfl, rfl⟩
  case biMode | biNl | operand => cases h; exact ⟨rfl, rfl⟩

theorem decodeByte_sameOutside {s t : State} (h : decodeByte s = .ok t) : s.SameOutside t := by
  unfold decodeByte at h
  split at h
  · cases h
  · exact State.SameOutside.trans (t := s.advancePos) ⟨rfl, rfl⟩ (decodeStep_sameOutside h)

theorem State.endDecode_sameOutside (s : State) : s.SameOutside s.endDecode := by
  unfold State.endDecode
  split <;> exact ⟨rfl, rfl⟩

/-! ## One instruction -/

theorem State.badWord_sameOutside (s : State) : s.SameOutside s.badWord := by
  unfold State.badWord
  split <;> exact ⟨rfl, rfl⟩

/-- An answer that names its state, with nothing outside the block changed, makes no channel access. -/
theorem access_of_next {s t u : State}
    (h : (.next u : Host.Outcome State Fault Refusal) = .next t) (hu : s.SameOutside u) :
    s.Access t := by
  cases h
  exact hu.access

section
variable {stop : Byte} {bufsel kind : Bool} {s t : State}

theorem execNop_access (h : execNop stop bufsel kind s = .next t) : s.Access t := by
  unfold execNop at h
  split at h <;> exact access_of_next h ⟨rfl, rfl⟩

theorem execReadUntil_access (h : execReadUntil stop bufsel kind s = .next t) : s.Access t := by
  unfold execReadUntil at h
  split at h
  · exact access_of_next h ⟨rfl, rfl⟩
  · exact conclude_access (tokenStep_takesRead _ _ _ s).access h
  · exact access_of_next h ⟨rfl, rfl⟩

theorem execReadBlock_access (h : execReadBlock stop bufsel kind s = .next t) : s.Access t := by
  unfold execReadBlock at h
  split at h
  · exact access_of_next h ⟨rfl, rfl⟩
  · exact conclude_access (blockStep_takesRead _ s).access h
  · exact access_of_next h ⟨rfl, rfl⟩

theorem execReadFrame_access (h : execReadFrame stop bufsel kind s = .next t) : s.Access t := by
  unfold execReadFrame at h
  split at h
  · exact access_of_next h ⟨rfl, rfl⟩
  · exact conclude_access (frameStep_access _ s) h
  · exact access_of_next h ⟨rfl, rfl⟩

theorem execSend_access (h : execSend stop bufsel kind s = .next t) : s.Access t := by
  unfold execSend at h
  split at h
  · exact access_of_next h (by split <;> exact ⟨rfl, rfl⟩)
  · exact conclude_access (sendCommand_access s) h
  · exact access_of_next h ⟨rfl, rfl⟩

theorem execTransactS_access (h : execTransactS stop bufsel s = .next t) : s.Access t := by
  unfold execTransactS at h
  split at h
  · exact access_of_next h (by split <;> exact ⟨rfl, rfl⟩)
  · exact conclude_access (simpleStep_access _ s) h
  · exact access_of_next h ⟨rfl, rfl⟩

theorem execTransactG_access (h : execTransactG stop bufsel s = .next t) : s.Access t := by
  unfold execTransactG at h
  split at h
  · exact access_of_next h (by split <;> exact ⟨rfl, rfl⟩)
  · exact conclude_access (graphicsStep_access _ s) h
  · exact access_of_next h ⟨rfl, rfl⟩

theorem execDecode_access (h : execDecode stop bufsel kind s = .next t) : s.Access t := by
  unfold execDecode at h
  split at h
  · exact access_of_next h (by split <;> exact ⟨rfl, rfl⟩)
  · exact access_of_next h ⟨rfl, rfl⟩
  · split at h
    · cases hd : decodeByte s with
      | error f => rw [hd] at h; cases h
      | ok u => rw [hd] at h; exact access_of_next h (decodeByte_sameOutside hd)
    · exact access_of_next h s.endDecode_sameOutside
  · exact access_of_next h ⟨rfl, rfl⟩

theorem execEscBitimg_access {mode : Byte} {nx : BitVec 16} {data : List Byte}
    (h : execEscBitimg mode nx data s = .next t) : s.Access t := by
  unfold execEscBitimg at h
  split at h
  · cases h
  · exact access_of_next h ⟨rfl, rfl⟩

/-- A step of any instruction makes at most one channel access. -/
theorem exec_access {i : Instr} (h : exec i s = .next t) : s.Access t := by
  cases i with
  | nop => exact execNop_access h
  | readUntil => exact execReadUntil_access h
  | readBlock => exact execReadBlock_access h
  | readFrame => exact execReadFrame_access h
  | send => exact execSend_access h
  | transactS => exact execTransactS_access h
  | transactG => exact execTransactG_access h
  | decode => exact execDecode_access h
  | badOp7 | badOp8F | badReserved => exact access_of_next h s.badWord_sameOutside
  | escBitimg mode => exact execEscBitimg_access (mode := mode) h
  | escReset | escLsp | escFam | escPitch | escUnrec | txt => exact access_of_next h ⟨rfl, rfl⟩

end

/-! ## One step of the machine (O49, O54) -/

/-- The configuration and the channel are as before; the schedule, the replies and the draws may not be. -/
def State.SameChannel (s t : State) : Prop :=
  t.cfg = s.cfg ∧ t.env.reads = s.env.reads ∧ t.env.writes = s.env.writes ∧ t.env.sent = s.env.sent

theorem State.ignoreAccess_sameChannel (s : State) : s.SameChannel s.ignoreAccess :=
  ⟨rfl, rfl, rfl, rfl⟩

theorem State.hostRegRead_sameChannel (s : State) (off : Nat) :
    s.SameChannel (s.hostRegRead off) := by
  unfold State.hostRegRead
  split <;> exact ⟨rfl, rfl, rfl, rfl⟩

theorem State.hostRegWrite_sameChannel (s : State) (off : Nat) (v : Word) :
    s.SameChannel (s.hostRegWrite off v) := by
  unfold State.hostRegWrite
  split
  · exact s.ignoreAccess_sameChannel
  · split <;> exact ⟨rfl, rfl, rfl, rfl⟩

theorem State.hostMemRead_sameChannel (s : State) (sp : Space) (i : Nat) :
    s.SameChannel (s.hostMemRead sp i) := by
  unfold State.hostMemRead
  split
  · exact ⟨rfl, rfl, rfl, rfl⟩
  · split <;> exact ⟨rfl, rfl, rfl, rfl⟩

theorem State.hostMemWrite_sameChannel (s : State) (sp : Space) (i : Nat) (v : Byte) :
    s.SameChannel (s.hostMemWrite sp i v) := by
  unfold State.hostMemWrite
  split
  · exact s.ignoreAccess_sameChannel
  · split
    · exact ⟨rfl, rfl, rfl, rfl⟩
    · exact s.ignoreAccess_sameChannel

/-- The host never touches the channel (R16, R70). -/
theorem hostAccess_sameChannel {a : HostAccess} {s t : State} (h : hostAccess a s = .done t) :
    s.SameChannel t := by
  rcases hostAccess_done h with ⟨off, rfl⟩ | ⟨off, v, rfl⟩ | ⟨sp, i, rfl⟩ | ⟨sp, i, v, rfl⟩
  · exact s.hostRegRead_sameChannel off
  · exact s.hostRegWrite_sameChannel off v
  · exact s.hostMemRead_sameChannel sp i
  · exact s.hostMemWrite_sameChannel sp i v

theorem blockTurn_access {s t : State} (h : blockTurn s = .next t) : s.Access t := by
  unfold blockTurn at h
  split at h
  · exact access_of_next h (State.SameOutside.refl s)
  · exact exec_access h

/-- A step is a turn of the block or a command, each with at most one channel access once the schedule's
turn is used up, or it leaves the channel alone. -/
theorem step_access {s t : State} (h : step s = .next t) :
    (∃ ts, (s.setTurns ts).Access t) ∨ s.SameChannel t := by
  rcases step_next h with ⟨hts, hb⟩ | ⟨ts, -, hb⟩ | ⟨w, ts, -, -, he⟩ | ⟨a, ts, -, ha⟩ | ⟨ts, -, rfl⟩
  · exact .inl ⟨[], by rw [State.setTurns_eq_self hts]; exact blockTurn_access hb⟩
  · exact .inl ⟨ts, blockTurn_access hb⟩
  · exact .inl ⟨ts, exec_access he⟩
  · exact .inr (show (s.setTurns ts).SameChannel t from hostAccess_sameChannel ha)
  · exact .inr ⟨rfl, rfl, rfl, rfl⟩

/-- Settles O49, by what each way to take a step leaves outside the block. -/
theorem noStepChangesTheConfiguration : Obligations.NoStepChangesTheConfiguration := by
  intro s t h
  rcases step_access h with ⟨ts, ha⟩ | hc
  · exact ha.cfg
  · exact hc.1

/-- Settles O54: no access is the first case, a `ChRead` the second, a `ChWrite` the third. -/
theorem atMostOneChannelAccessPerStep : Obligations.AtMostOneChannelAccessPerStep := by
  intro s t h
  rcases step_access h with ⟨ts, ⟨-, he⟩ | ⟨-, a, rs, hr, he⟩ | ⟨-, a, ws, hw, he⟩⟩ | ⟨-, hc⟩
  · exact .inl (by rw [he]; exact ⟨rfl, rfl, rfl⟩)
  · exact .inr (.inl ⟨a, by rw [he]; exact ⟨hr, rfl, rfl⟩⟩)
  · exact .inr (.inr ⟨a, by rw [he]; exact ⟨hw, rfl, rfl⟩⟩)
  · exact .inl hc

end Sys2Proof.Machine

/-! PROOFS. The statements of spec/10_state.md: the two invariants over every step, the bounds of the
decoder's counters, the end of an operation, and the host's register accesses. -/

namespace Sys2Proof.Machine

/-! ## The part of the invariant that PHASE has no part in -/

/-- The contents of one buffer: canonical, and no index outside it (R62). -/
def Space.Holds (c : Config) (sp : Space) (m : Memory) : Prop :=
  Memory.wf m = true ∧ Memory.within (sp.size c) m = true

def Buffers.Sound (c : Config) (b : Buffers) : Prop := ∀ sp : Space, sp.Holds c (b.get sp)

/-- ACKLEN and STRLEN fit their buffers, and the vertical cursor is a multiple of 8 (R29, R30, R33). -/
def HostRegs.Fit (c : Config) (r : HostRegs) : Prop :=
  r.acklen.toNat ≤ c.tokenCap ∧ r.strlen.toNat ≤ c.tokenCap ∧ r.ycur.toNat % 8 = 0

/-- A result flag is set only when its valid flag is (R25). -/
def Status.Coherent (st : Status) : Prop :=
  (st.chkOk = true → st.chkValid = true) ∧ (st.ackOk = true → st.ackValid = true)

/-- What the invariant says of the configuration, the buffers, the registers and the result flags. A
definition by conjunctions, so that it is the same proposition of two states that agree in those. -/
def State.Sound (s : State) : Prop :=
  s.cfg.Legal ∧ s.bufs.Sound s.cfg ∧ s.regs.Fit s.cfg ∧ s.status.Coherent

/-- What the invariant says of the running operation. -/
structure State.Control (s : State) : Prop where
  busyNotDone : s.busy = true → s.status.done = false
  busyNoErr : s.busy = true → s.status.err = .noError
  frameFits : s.phase.sends = true → s.regs.txlen.toNat ≤ s.cfg.txCap
  streamFits : s.phase.decodes = true → s.regs.paylen.toNat ≤ s.cfg.payloadCap
  posFits : s.phase = .decode .loop → s.rd.pos.toNat ≤ s.regs.paylen.toNat
  kindLatched : ∀ k, s.phase.kind = some k → s.latch.kind = k

theorem State.inv_iff {s : State} : s.Inv ↔ s.Sound ∧ s.Control where
  mp h := ⟨⟨h.cfgLegal, fun sp => ⟨h.bufsCanonical sp, h.bufsWithin sp⟩,
      ⟨h.acklenFits, h.strlenFits, h.ycurAligned⟩, h.chkOkValid, h.ackOkValid⟩, { h with }⟩
  mpr := by
    rintro ⟨⟨hcfg, hbufs, ⟨hack, hstr, hycur⟩, hchk, hackOk⟩, h⟩
    exact { h with
      cfgLegal := hcfg
      bufsCanonical := fun sp => (hbufs sp).1
      bufsWithin := fun sp => (hbufs sp).2
      acklenFits := hack
      strlenFits := hstr
      chkOkValid := hchk
      ackOkValid := hackOk
      ycurAligned := hycur }

/-- An idle block has no operation to speak of. -/
theorem State.control_of_idle {s : State} (h : s.phase = .idle) : s.Control where
  busyNotDone hb := by simp [h] at hb
  busyNoErr hb := by simp [h] at hb
  frameFits hs := by simp [h, Phase.sends] at hs
  streamFits hd := by simp [h, Phase.decodes] at hd
  posFits hl := by simp [h] at hl
  kindLatched k hk := by simp [h, Phase.kind] at hk

/-! ### What keeps it, component by component -/

theorem Space.Holds.write {c : Config} {sp : Space} {m : Memory} (h : sp.Holds c m) {i : Nat}
    (hi : i < sp.size c) (v : Byte) : sp.Holds c (Memory.write m i v) :=
  ⟨Memory.wf_write h.1 i v, Memory.within_write h.2 hi v⟩

theorem Space.Holds.nil (c : Config) (sp : Space) : sp.Holds c [] := ⟨rfl, rfl⟩

theorem Space.Holds.pixWrite {c : Config} {x y : Nat} {v : Bool} {m m' : Memory}
    (h : Space.bitmap.Holds c m) (hw : pixWrite c x y v m = .ok m') : Space.bitmap.Holds c m' := by
  rcases pixWrite_ok hw with ⟨-, -, hi, rfl⟩ | ⟨-, rfl⟩
  · exact h.write hi _
  · exact h

theorem Buffers.Sound.set {c : Config} {b : Buffers} (h : b.Sound c) {sp : Space} {m : Memory}
    (hm : sp.Holds c m) : (b.set sp m).Sound c := by
  intro sp'
  by_cases he : sp' = sp
  · subst he; rwa [Buffers.get_set_same]
  · rw [Buffers.get_set_other b he]; exact h sp'

theorem State.Sound.holds {s : State} (h : s.Sound) (sp : Space) :
    sp.Holds s.cfg (s.bufs.get sp) := by
  obtain ⟨-, hbufs, -⟩ := h
  exact hbufs sp

theorem State.Sound.setBuf {s : State} (h : s.Sound) {sp : Space} {m : Memory}
    (hm : sp.Holds s.cfg m) : (s.setBuf sp m).Sound := by
  obtain ⟨hcfg, hbufs, hregs, hflags⟩ := h
  exact ⟨hcfg, hbufs.set hm, hregs, hflags⟩

/-- A byte stored inside its buffer. -/
theorem State.Sound.store {s : State} (h : s.Sound) {sp : Space} {i : Nat}
    (hi : i < sp.size s.cfg) (v : Byte) :
    (s.setBuf sp (Memory.write (s.bufs.get sp) i v)).Sound :=
  h.setBuf ((h.holds sp).write hi v)

theorem State.Sound.setTokenLen {s : State} (h : s.Sound) (ack : Bool) {n : Word}
    (hn : n.toNat ≤ s.cfg.tokenCap) : (s.setTokenLen ack n).Sound := by
  obtain ⟨hcfg, hbufs, ⟨hack, hstr, hycur⟩, hflags⟩ := h
  cases ack
  · exact ⟨hcfg, hbufs, ⟨hack, hn, hycur⟩, hflags⟩
  · exact ⟨hcfg, hbufs, ⟨hn, hstr, hycur⟩, hflags⟩

theorem State.Sound.advanceRow {s : State} (h : s.Sound) : s.advanceRow.Sound := by
  obtain ⟨hcfg, hbufs, ⟨hack, hstr, hycur⟩, hflags⟩ := h
  refine ⟨hcfg, hbufs, ⟨hack, hstr, ?_⟩, hflags⟩
  simp only [State.advanceRow_regs, BitVec.toNat_add, BitVec.reduceToNat]
  omega

theorem State.Sound.clearBlockResults {s : State} : s.Sound → s.clearBlockResults.Sound
  | ⟨hcfg, hbufs, hregs, _, hack⟩ => ⟨hcfg, hbufs, hregs, nofun, hack⟩

theorem State.Sound.clearTransactResults {s : State} : s.Sound → s.clearTransactResults.Sound
  | ⟨hcfg, hbufs, ⟨hack, _, hycur⟩, _⟩ =>
    ⟨hcfg, hbufs, ⟨hack, Nat.zero_le _, hycur⟩, nofun, nofun⟩

theorem State.Sound.clearDecodeResults {s : State} : s.Sound → s.clearDecodeResults.Sound
  | ⟨hcfg, hbufs, ⟨hack, hstr, _⟩, hflags⟩ => ⟨hcfg, hbufs, ⟨hack, hstr, rfl⟩, hflags⟩

theorem State.Sound.startDecode {s : State} (h : s.Sound) : s.startDecode.Sound :=
  h.setBuf (sp := .bitmap) (.nil s.cfg .bitmap)

/-! ## What one step of an operation does to PHASE and to the flags -/

/-- The running operation goes on from `s` in `u`: the latch, DONE and ERR are as before. -/
structure State.RunsOn (s u : State) : Prop where
  sound : s.Sound → u.Sound
  latch : u.latch = s.latch
  done : u.status.done = s.status.done
  err : u.status.err = s.status.err

/-- The operation that ran in `s` has ended in `u` (R214, R216). -/
structure State.Ends (s u : State) : Prop where
  sound : s.Sound → u.Sound
  idle : u.phase = .idle
  done : u.status.done = true

theorem State.RunsOn.refl (s : State) : s.RunsOn s := ⟨id, rfl, rfl, rfl⟩

theorem State.RunsOn.trans {s t u : State} (h : s.RunsOn t) (h' : t.RunsOn u) : s.RunsOn u where
  sound := h'.sound ∘ h.sound
  latch := h'.latch.trans h.latch
  done := h'.done.trans h.done
  err := h'.err.trans h.err

theorem State.RunsOn.then_ends {s t u : State} (h : s.RunsOn t) (h' : t.Ends u) : s.Ends u :=
  { h' with sound := h'.sound ∘ h.sound }

theorem State.ends_raiseErr (s : State) (e : ErrCode) : s.Ends (s.raiseErr e) := ⟨id, rfl, rfl⟩

theorem State.ends_finish (s : State) : s.Ends s.finish := ⟨id, rfl, rfl⟩

theorem State.ends_reject {s : State} (h : s.phase = .idle) : s.Ends s.reject := ⟨id, h, rfl⟩

/-- What one `ChRead` inside a read may leave. -/
def ByteRead.Runs (s : State) : ByteRead → Prop
  | .wait => True
  | .ended t => s.Ends t
  | .again t | .byte _ t => s.RunsOn t

/-- What one step of a procedure may leave, if it does not fault: the operation ended, or going on with
the procedure in a phase in `Q`. -/
def Runs {π : Type} (s : State) (Q : π → Prop) (p : Except Fault (Progress π)) : Prop :=
  ∀ g, p = .ok g → match g with
    | .wait => True
    | .ended t => s.Ends t
    | .more q t => Q q ∧ s.RunsOn t
    | .done t => s.RunsOn t

theorem Runs.wait {π : Type} {s : State} {Q : π → Prop} : Runs s Q (.ok .wait) := by
  rintro _ ⟨⟩; trivial

theorem Runs.ended {π : Type} {s t : State} {Q : π → Prop} (h : s.Ends t) :
    Runs s Q (.ok (.ended t)) := by
  rintro _ ⟨⟩; exact h

theorem Runs.more {π : Type} {s t : State} {Q : π → Prop} {q : π} (hq : Q q) (h : s.RunsOn t) :
    Runs s Q (.ok (.more q t)) := by
  rintro _ ⟨⟩; exact ⟨hq, h⟩

theorem Runs.done {π : Type} {s t : State} {Q : π → Prop} (h : s.RunsOn t) :
    Runs s Q (.ok (.done t)) := by
  rintro _ ⟨⟩; exact h

theorem Runs.error {π : Type} {s : State} {Q : π → Prop} {f : Fault} : Runs s Q (.error f) := by
  intro g h; cases h

/-- The first lines of a procedure go before its step. -/
theorem Runs.of_runsOn {π : Type} {s s' : State} {Q : π → Prop} {p : Except Fault (Progress π)}
    (hs : s.RunsOn s') (h : Runs s' Q p) : Runs s Q p := by
  rintro (_ | t | ⟨q, t⟩ | t) hg
  · trivial
  · exact hs.then_ends (h _ hg)
  · exact ⟨(h _ hg).1, hs.trans (h _ hg).2⟩
  · exact hs.trans (h _ hg)

/-- A procedure inside another: its phases are phases of the outer one. -/
theorem Runs.within {π ρ : Type} {s : State} {Q : ρ → Prop} {into : π → ρ}
    {ret : State → Except Fault (Progress ρ)} {p : Except Fault (Progress π)}
    (hp : Runs s (fun q => Q (into q)) p) (hret : ∀ u, Runs u Q (ret u)) :
    Runs s Q (Progress.within into ret p) := by
  intro g h
  rcases Progress.within_ok h with ⟨-, rfl⟩ | ⟨t, ht, rfl⟩ | ⟨q, t, ht, rfl⟩ | ⟨t, ht, hr⟩
  · trivial
  · exact hp _ ht
  · exact hp _ ht
  · exact Runs.of_runsOn (hp _ ht) (hret t) g hr

/-! ## The frame reader's procedures -/

theorem State.runsOn_startToken (s : State) (ack : Bool) : s.RunsOn (s.startToken ack) where
  sound h := h.setTokenLen ack (n := 0) (Nat.zero_le _)
  latch := by simp
  done := by simp
  err := by simp

theorem State.runsOn_startBlock (s : State) : s.RunsOn s.startBlock := ⟨id, rfl, rfl, rfl⟩

theorem State.storeToken_runsOn {s t : State} {ack : Bool} {b : Byte}
    (h : s.storeToken ack b = .ok t) : s.RunsOn t := by
  rcases State.storeToken_ok h with ⟨hlt, rfl⟩ | ⟨-, rfl⟩
  · have hsize : (s.tokenLen ack).toNat < (tokenSpace ack).size s.cfg := by cases ack <;> exact hlt
    have hnext : (s.tokenLen ack + 1).toNat ≤ s.cfg.tokenCap := by
      rw [BitVec.toNat_add]; exact (Nat.mod_le _ _).trans hlt
    exact ⟨fun hs => (hs.store hsize b).setTokenLen ack hnext, by simp, by simp, by simp⟩
  · exact ⟨id, rfl, rfl, rfl⟩

theorem State.storeBlock_runsOn {s t : State} {b : Byte} (h : s.storeBlock b = .ok t) :
    s.RunsOn t := by
  rcases State.storeBlock_ok h with ⟨hlt, rfl⟩ | ⟨-, rfl⟩
  · exact ⟨fun hs => hs.store (sp := .payload) hlt b, rfl, rfl, rfl⟩
  · exact ⟨id, rfl, rfl, rfl⟩

theorem State.runsOn_recordChecksum (s : State) (c : Byte) : s.RunsOn (s.recordChecksum c) where
  sound := fun ⟨hcfg, hbufs, hregs, _, hack⟩ => ⟨hcfg, hbufs, hregs, fun _ => rfl, hack⟩
  latch := rfl
  done := rfl
  err := rfl

theorem State.recordAck_runsOn {s t : State} (h : s.recordAck = .ok t) : s.RunsOn t := by
  obtain rfl := State.recordAck_ok h
  exact ⟨fun ⟨hcfg, hbufs, hregs, hchk, _⟩ => ⟨hcfg, hbufs, hregs, hchk, fun _ => rfl⟩, rfl, rfl, rfl⟩

/-- One `ChRead` leaves the data alone, or ends the operation (R117). -/
theorem readByte_runs (s : State) : (readByte s).Runs s := by
  rcases readByte_cases s with ⟨-, h⟩ | ⟨b, rs, -, h⟩ | ⟨rs, -, h⟩ | ⟨rs, -, -, h⟩ |
    ⟨rs, -, -, h⟩ <;> rw [h]
  · trivial
  · exact ⟨id, rfl, rfl, rfl⟩
  · exact ⟨id, rfl, rfl⟩
  · exact ⟨id, rfl, rfl⟩
  · exact ⟨id, rfl, rfl, rfl⟩

/-- One step of `ReadToken` (R118, R119). -/
theorem tokenStep_runs {Q : TokenPhase → Prop} (hQ : Q .loop) (p : TokenPhase) (stop : Byte)
    (ack : Bool) (s : State) : Runs s Q (tokenStep p stop ack s) := by
  have loop : ∀ s : State, Runs s Q (tokenStep .loop stop ack s) := by
    intro s g h
    have hread := readByte_runs s
    rcases tokenStep_loop_ok h with ⟨-, rfl⟩ | ⟨u, hu, rfl⟩ | ⟨u, hu, rfl⟩ | ⟨u, hu, rfl⟩ |
      ⟨b, u, v, hu, -, hv, rfl⟩
    · trivial
    all_goals rw [hu] at hread
    · exact hread
    · exact ⟨hQ, hread⟩
    · cases u.fr.ovf
      · exact hread
      · exact hread.then_ends (u.ends_raiseErr .tokenOverflow)
    · exact ⟨hQ, hread.trans (State.storeToken_runsOn hv)⟩
  cases p with
  | loop => exact loop s
  | start => exact (loop _).of_runsOn (s.runsOn_startToken ack)

/-- One step of `ReadBlock` (R124, R125). -/
theorem blockStep_runs {Q : BlockPhase → Prop} (hQ : Q .loop) (p : BlockPhase) (s : State) :
    Runs s Q (blockStep p s) := by
  have loop : ∀ s : State, Runs s Q (blockStep .loop s) := by
    intro s g h
    have hread := readByte_runs s
    rcases blockStep_loop_ok h with ⟨-, rfl⟩ | ⟨u, hu, rfl⟩ | ⟨u, hu, rfl⟩ | ⟨c, u, hu, -, rfl⟩ |
      ⟨b, u, v, hu, -, hv, rfl⟩
    · trivial
    all_goals rw [hu] at hread
    · exact hread
    · exact ⟨hQ, hread⟩
    · exact hread.trans (u.runsOn_recordChecksum c)
    · exact ⟨hQ, hread.trans (State.storeBlock_runsOn hv)⟩
  cases p with
  | loop => exact loop s
  | start => exact (loop _).of_runsOn s.runsOn_startBlock

/-- The one step of `SendCommand` waits, returns, or ends the operation: it never goes on (R137). -/
theorem sendCommand_runs (Q : Unit → Prop) (s : State) : Runs s Q (sendCommand s) := by
  intro g h
  obtain ⟨frame, -, ⟨-, rfl⟩ | ⟨ws, -, rfl⟩ | ⟨a, ws, -, -, rfl⟩⟩ := sendCommand_ok h
  · trivial
  · exact ⟨id, rfl, rfl, rfl⟩
  · exact ⟨id, rfl, rfl⟩

theorem frameStep_runs {Q : FramePhase → Prop} (hQ : ∀ q, Q q) (p : FramePhase) (s : State) :
    Runs s Q (frameStep p s) := by
  cases p with
  | token t =>
    exact (tokenStep_runs (hQ _) t comma false s).within fun u => .more (hQ _) (.refl u)
  | block b => exact (blockStep_runs (hQ _) b s).within fun u => .done (.refl u)
  | parse =>
    unfold frameStep
    dsimp only
    split
    · exact .error
    · exact .ended (s.ends_raiseErr .lengthFormat)
    · exact .more (hQ _) ⟨id, rfl, rfl, rfl⟩

theorem ackStep_runs {π : Type} {Q : π → Prop} {into : TokenPhase → π} {onSuccess : π}
    (hloop : Q (into .loop)) (hsuccess : Q onSuccess) (t : TokenPhase) (s : State) :
    Runs s Q (ackStep t into onSuccess s) := by
  refine (tokenStep_runs hloop t carriageReturn true s).within fun u => ?_
  split
  · exact .error
  · rename_i v hv
    have hrec := State.recordAck_runsOn hv
    split
    · exact .more hsuccess hrec
    · exact .done hrec

theorem simpleStep_runs {Q : SimplePhase → Prop} (hack : ∀ t, Q (.ack t))
    (hsecond : ∀ t, Q (.second t)) (p : SimplePhase) (s : State) : Runs s Q (simpleStep p s) := by
  cases p with
  | send => exact (sendCommand_runs _ s).within fun u => .more (hack _) (.refl u)
  | ack t => exact ackStep_runs (hack _) (hsecond _) t s
  | second t =>
    exact (tokenStep_runs (hsecond _) t carriageReturn false s).within fun u => .done (.refl u)

theorem graphicsStep_runs {Q : GraphicsPhase → Prop} (hack : ∀ t, Q (.ack t))
    (hframe : ∀ f, Q (.frame f)) (p : GraphicsPhase) (s : State) :
    Runs s Q (graphicsStep p s) := by
  cases p with
  | send => exact (sendCommand_runs _ s).within fun u => .more (hack _) (.refl u)
  | ack t => exact ackStep_runs (hack _) (hframe _) t s
  | frame f => exact (frameStep_runs hframe f s).within fun u => .done (.refl u)

/-! ## The raster decoder -/

/-- The raster decoder has consumed `n` bytes of the stream: what a running decode leaves alone, and
POS `n` further (R23, R180). -/
structure State.Consumes (n : Nat) (s t : State) : Prop where
  sound : s.Sound → t.Sound
  cfg : t.cfg = s.cfg
  phase : t.phase = s.phase
  status : t.status = s.status
  latch : t.latch = s.latch
  txlen : t.regs.txlen = s.regs.txlen
  paylen : t.regs.paylen = s.regs.paylen
  pos : t.rd.pos = s.rd.pos + BitVec.ofNat 32 n

theorem State.Sound.paintColumns {s : State} (h : s.Sound) {y x : Nat} {ds : List Byte} {m : Memory}
    (hp : paintColumns s.cfg y x ds s.bufs.bitmap = .ok m) : (s.setBuf .bitmap m).Sound :=
  h.setBuf (paintColumns_keeps (fun _ _ _ _ _ hm hw => hm.pixWrite hw) (h.holds .bitmap) hp)

theorem State.Sound.paintColumn {s : State} (h : s.Sound) {x y : Nat} {d : Byte} {m : Memory}
    (hp : paintColumn s.cfg x y d s.bufs.bitmap = .ok m) : (s.setBuf .bitmap m).Sound :=
  h.setBuf (paintRows_keeps (fun _ _ _ _ hm hw => hm.pixWrite hw) (h.holds .bitmap) hp)

/-- `DecodeStep` runs after POS has moved, and moves it no further (R162). -/
theorem decodeStep_consumes {b : Byte} {s t : State} (h : decodeStep b s = .ok t) :
    s.Consumes 0 t := by
  cases hp : s.rd.pstate <;> simp only [decodeStep, hp] at h
  case text | esc => split at h <;> cases h <;> exact ⟨id, rfl, rfl, rfl, rfl, rfl, rfl, by simp⟩
  case biMode | biNl | operand => cases h; exact ⟨id, rfl, rfl, rfl, rfl, rfl, rfl, by simp⟩
  case biNh =>
    split at h <;> cases h
    · exact ⟨fun hs => hs.advanceRow, rfl, rfl, rfl, rfl, rfl, rfl, by simp⟩
    · exact ⟨id, rfl, rfl, rfl, rfl, rfl, rfl, by simp⟩
  case biData =>
    split at h
    · cases h
    · rename_i m hm
      split at h <;> cases h
      · exact ⟨fun hs => (hs.paintColumn hm).advanceRow, rfl, rfl, rfl, rfl, rfl, rfl, by simp⟩
      · exact ⟨fun hs => hs.paintColumn hm, rfl, rfl, rfl, rfl, rfl, rfl, by simp⟩

theorem decodeByte_ok {s t : State} (h : decodeByte s = .ok t) :
    decodeStep (s.byteAt .payload s.rd.pos.toNat) s.advancePos = .ok t := by
  unfold decodeByte at h
  split at h
  · cases h
  · rename_i b hb
    obtain ⟨-, rfl⟩ := State.blockRead_ok.mp hb
    exact h

theorem decodeByte_consumes {s t : State} (h : decodeByte s = .ok t) : s.Consumes 1 t := by
  have hstep := decodeStep_consumes (decodeByte_ok h)
  exact { hstep with pos := by simpa using hstep.pos }

theorem execEscBitimg_ok {mode : Byte} {nx : BitVec 16} {data : List Byte} {s t : State}
    (h : execEscBitimg mode nx data s = .next t) :
    ∃ m, paintColumns s.cfg s.regs.ycur.toNat 0 data s.bufs.bitmap = .ok m ∧
      t = (((s.setBuf .bitmap m).setNl (nx.extractLsb' 0 8)).setColumns nx nx).advanceRow.consume
        (5 + nx.toNat) := by
  unfold execEscBitimg at h
  split at h
  · cases h
  · rename_i m hm
    cases h
    exact ⟨m, hm, rfl⟩

/-- A whole command of the stream is consumed in its own length (R100, R162). -/
theorem exec_stream_consumes {i : Instr} (hi : i.isCommand = false) {s t : State}
    (h : exec i s = .next t) : s.Consumes i.length t := by
  cases i with
  | escBitimg mode nx data =>
    obtain ⟨m, hm, rfl⟩ := execEscBitimg_ok (mode := mode) h
    exact ⟨fun hs => (hs.paintColumns hm).advanceRow, rfl, rfl, rfl, rfl, rfl, rfl, rfl⟩
  | escReset | escLsp | escFam | escPitch | escUnrec | txt =>
    cases h; exact ⟨id, rfl, rfl, rfl, rfl, rfl, rfl, rfl⟩
  | nop | readUntil | readBlock | readFrame | send | transactS | transactG | decode | badOp7
  | badOp8F | badReserved => cases hi

/-- `EndDecode` and the return (R178, R216). -/
theorem State.ends_endDecode (s : State) : s.Ends s.endDecode.finish := by
  unfold State.endDecode
  split <;> exact ⟨id, rfl, rfl⟩

/-! ## One step of a host command -/

/-- The phases a running operation may go on in after a step of the frame reader: of no decode, of the
same kind of transaction, and with the frame already sent. -/
def Phase.GoesOnIn (p q : Phase) : Prop :=
  q ≠ .idle ∧ q.sends = false ∧ q.decodes = false ∧ q.kind = p.kind

/-- The state right after an operation's acceptance (R88, R89), with the limits of R87 checked. -/
structure State.Accepted (t : State) : Prop where
  busy : t.phase ≠ .idle
  done : t.status.done = false
  err : t.status.err = .noError
  frame : t.phase.sends = true → t.regs.txlen.toNat ≤ t.cfg.txCap
  stream : t.phase.decodes = true → t.phase = .decode .clear ∧
    t.regs.paylen.toNat ≤ t.cfg.payloadCap ∧ t.regs.ycur = 0 ∧ t.regs.unrec = 0
  kind : ∀ k, t.phase.kind = some k → t.latch.kind = k

/-- Everything one step of a host command can do. -/
inductive State.Moves (s : State) : State → Prop
  /-- The channel has not answered (R227). -/
  | waits : s.Moves s
  /-- A CMD write while another operation runs (R22). -/
  | ignored : s.Moves s.ignoreAccess
  /-- The acceptance step of an idle block (R88). -/
  | accepts {t : State} (idle : s.phase = .idle) (sound : s.Sound → t.Sound) (accepted : t.Accepted) :
    s.Moves t
  /-- A rejection (R213), an error (R214) or a return (R216). -/
  | ends {t : State} (ends : s.Ends t) : s.Moves t
  /-- The frame reader goes on. -/
  | goesOn {t : State} (busy : s.phase ≠ .idle) (runs : s.RunsOn t) (phase : s.phase.GoesOnIn t.phase) :
    s.Moves t
  /-- `ClearBitmap` and the decoder's initial values (R160, R161). -/
  | clears (phase : s.phase = .decode .clear) : s.Moves (s.startDecode.enter (.decode .loop))
  /-- One round of DECODE's loop (R160). -/
  | decodes {t : State} (phase : s.phase = .decode .loop)
    (left : s.rd.pos.toNat < s.regs.paylen.toNat) (step : decodeByte s = .ok t) : s.Moves t

/-- The step of an operation of the frame reader, from the step of its body. -/
theorem conclude_moves {π : Type} {s t : State} {into : π → Phase}
    {p : Except Fault (Progress π)} (hb : s.phase ≠ .idle)
    (hp : Runs s (fun q => s.phase.GoesOnIn (into q)) p) (h : conclude s into p = .next t) :
    s.Moves t := by
  rcases conclude_next h with ⟨-, rfl⟩ | ht | ⟨q, u, hu, rfl⟩ | ⟨u, hu, rfl⟩
  · exact .waits
  · exact .ends (hp _ ht)
  · obtain ⟨hq, hrun⟩ := hp _ hu
    exact .goesOn hb { hrun with } hq
  · exact .ends (State.RunsOn.then_ends (hp _ hu) u.ends_finish)

theorem moves_ignored {s t : State}
    (h : (.next s.ignoreAccess : Host.Outcome State Fault Refusal) = .next t) : s.Moves t := by
  cases h
  exact .ignored

/-- A phase that starts no decode, with the limit on TXLEN checked where a frame is to be sent. -/
theorem State.accepted_accept {s : State} {l : Latch} {p : Phase} (hp : p ≠ .idle)
    (hsend : p.sends = true → s.txTooLong = false) (hdecode : p.decodes = false)
    (hkind : ∀ k, p.kind = some k → l.kind = k) : (s.accept l p).Accepted where
  busy := hp
  done := rfl
  err := rfl
  frame h := by simpa [State.txTooLong] using hsend h
  stream h := by simp [hdecode] at h
  kind := hkind

/-- The acceptance of an operation that a word may still be too bad for (R87 (c), (d)). -/
theorem moves_unless {s t u : State} {bad : Bool} (hp : s.phase = .idle)
    (h : (.next (if bad then s.reject else u) : Host.Outcome State Fault Refusal) = .next t)
    (hsound : s.Sound → u.Sound) (haccepted : bad = false → u.Accepted) :
    s.Moves t := by
  cases bad <;> cases h
  · exact .accepts hp hsound (haccepted rfl)
  · exact .ends (State.ends_reject hp)

theorem State.badWord_moves (s : State) : s.Moves s.badWord := by
  unfold State.badWord
  cases hb : s.busy
  · exact .ends (State.ends_reject (by simpa [State.busy] using hb))
  · exact .ignored

section
variable {stop : Byte} {bufsel kind : Bool} {s t : State}

theorem execNop_moves (h : execNop stop bufsel kind s = .next t) : s.Moves t := by
  unfold execNop at h
  split at h
  · rename_i hp
    cases h
    exact .accepts hp id (State.accepted_accept nofun nofun rfl nofun)
  · cases h
    exact .ends s.ends_finish
  · exact moves_ignored h

theorem execReadUntil_moves (h : execReadUntil stop bufsel kind s = .next t) : s.Moves t := by
  unfold execReadUntil at h
  split at h
  · rename_i hp
    cases h
    exact .accepts hp id (State.accepted_accept nofun nofun rfl nofun)
  · rename_i p hp
    refine conclude_moves (by simp [hp]) (tokenStep_runs ?_ p _ _ s) h
    rw [hp]
    exact ⟨nofun, rfl, rfl, rfl⟩
  · exact moves_ignored h

theorem execReadBlock_moves (h : execReadBlock stop bufsel kind s = .next t) : s.Moves t := by
  unfold execReadBlock at h
  split at h
  · rename_i hp
    cases h
    exact .accepts hp State.Sound.clearBlockResults (State.accepted_accept nofun nofun rfl nofun)
  · rename_i p hp
    refine conclude_moves (by simp [hp]) (blockStep_runs ?_ p s) h
    rw [hp]
    exact ⟨nofun, rfl, rfl, rfl⟩
  · exact moves_ignored h

theorem execReadFrame_moves (h : execReadFrame stop bufsel kind s = .next t) : s.Moves t := by
  unfold execReadFrame at h
  split at h
  · rename_i hp
    cases h
    exact .accepts hp State.Sound.clearBlockResults (State.accepted_accept nofun nofun rfl nofun)
  · rename_i p hp
    refine conclude_moves (by simp [hp]) (frameStep_runs (fun q => ?_) p s) h
    rw [hp]
    exact ⟨nofun, rfl, rfl, rfl⟩
  · exact moves_ignored h

theorem execSend_moves (h : execSend stop bufsel kind s = .next t) : s.Moves t := by
  unfold execSend at h
  split at h
  · rename_i hp
    exact moves_unless hp h id fun hc => State.accepted_accept nofun (fun _ => hc) rfl nofun
  · rename_i hp
    exact conclude_moves (by simp [hp]) (sendCommand_runs _ s) h
  · exact moves_ignored h

theorem execTransactS_moves (h : execTransactS stop bufsel s = .next t) : s.Moves t := by
  unfold execTransactS at h
  split at h
  · rename_i hp
    refine moves_unless hp h State.Sound.clearTransactResults fun hc => ?_
    exact State.accepted_accept nofun (fun _ => hc) rfl (by rintro _ ⟨⟩; rfl)
  · rename_i p hp
    refine conclude_moves (by simp [hp]) (simpleStep_runs (fun q => ?_) (fun q => ?_) p s) h
    all_goals
      rw [hp]
      exact ⟨nofun, rfl, rfl, rfl⟩
  · exact moves_ignored h

theorem execTransactG_moves (h : execTransactG stop bufsel s = .next t) : s.Moves t := by
  unfold execTransactG at h
  split at h
  · rename_i hp
    refine moves_unless hp h State.Sound.clearTransactResults fun hc => ?_
    exact State.accepted_accept nofun (fun _ => hc) rfl (by rintro _ ⟨⟩; rfl)
  · rename_i p hp
    refine conclude_moves (by simp [hp]) (graphicsStep_runs (fun q => ?_) (fun q => ?_) p s) h
    all_goals
      rw [hp]
      exact ⟨nofun, rfl, rfl, rfl⟩
  · exact moves_ignored h

theorem execDecode_moves (h : execDecode stop bufsel kind s = .next t) : s.Moves t := by
  unfold execDecode at h
  split at h
  · rename_i hp
    refine moves_unless hp h State.Sound.clearDecodeResults fun hc => ?_
    exact ⟨nofun, rfl, rfl, nofun, fun _ => ⟨rfl, by simpa [State.payTooLong] using hc, rfl, rfl⟩,
      nofun⟩
  · rename_i hp
    cases h
    exact .clears hp
  · rename_i hp
    split at h
    · rename_i hlt
      cases hd : decodeByte s with
      | error f => rw [hd] at h; cases h
      | ok u => rw [hd] at h; cases h; exact .decodes hp hlt hd
    · cases h
      exact .ends s.ends_endDecode
  · exact moves_ignored h

/-- A step of any host command, in any phase, is one of `State.Moves`. -/
theorem exec_command_moves {i : Instr} (hi : i.isCommand = true) (h : exec i s = .next t) :
    s.Moves t := by
  cases i with
  | nop => exact execNop_moves h
  | readUntil => exact execReadUntil_moves h
  | readBlock => exact execReadBlock_moves h
  | readFrame => exact execReadFrame_moves h
  | send => exact execSend_moves h
  | transactS => exact execTransactS_moves h
  | transactG => exact execTransactG_moves h
  | decode => exact execDecode_moves h
  | badOp7 | badOp8F | badReserved => cases h; exact s.badWord_moves
  | escReset | escBitimg | escLsp | escFam | escPitch | escUnrec | txt => cases hi

end

/-! ## Everything a step can do -/

theorem decodeWord_isCommand (w : Word) : (decodeWord w).isCommand = true := by
  unfold decodeWord
  dsimp only
  repeat' split
  all_goals rfl

/-- A stream decodes to an item of the stream, and its length in bytes is taken off (R96, R100). -/
theorem decodeStream_ok {c : Config} {bs rest : List Byte} {i : Instr}
    (h : decodeStream c bs = .ok (i, rest)) :
    i.isCommand = false ∧ i.length + rest.length = bs.length := by
  unfold decodeStream at h
  split at h
  · cases h
  · split at h <;> cases h
    exact ⟨rfl, rfl⟩
  · rename_i b sel tail
    split at h
    · split at h
      · cases h
        exact ⟨rfl, Nat.add_comm ..⟩
      · split at h
        · split at h
          · cases h
            refine ⟨rfl, ?_⟩
            simp only [Instr.length, List.length_drop, List.length_cons]
            omega
          · cases h
        · cases h
      · split at h <;> cases h
        exact ⟨rfl, Nat.add_comm ..⟩
      · split at h <;> cases h
        exact ⟨rfl, Nat.add_comm ..⟩
      · cases h
        exact ⟨rfl, Nat.add_comm ..⟩
      · cases h
        exact ⟨rfl, Nat.add_comm ..⟩
    · cases h
      exact ⟨rfl, Nat.add_comm ..⟩

theorem State.nextCommand_some {s : State} {i : Instr} (h : s.nextCommand = some i) :
    s.rd.pstate = .text ∧ ∃ rest, decodeStream s.cfg s.streamBytes = .ok (i, rest) := by
  unfold State.nextCommand at h
  split at h
  · split at h
    · cases h
      exact ⟨‹_›, _, ‹_›⟩
    · cases h
  · cases h

/-- A whole command at POS ends at or before PAYLEN (R76, R100). -/
theorem State.nextCommand_fits {s : State} {i : Instr} (h : s.nextCommand = some i)
    (hpos : s.rd.pos.toNat ≤ s.regs.paylen.toNat) :
    s.rd.pos.toNat + i.length ≤ s.regs.paylen.toNat := by
  obtain ⟨-, rest, hd⟩ := State.nextCommand_some h
  have hlen := (decodeStream_ok hd).2
  simp only [State.streamBytes, List.length_map, List.length_range'] at hlen
  omega

/-- What the block runs: nothing while idle, a host command, or, in DECODE's loop, the command at POS. -/
theorem State.nextInstr_cases (s : State) :
    (s.phase = .idle ∧ s.nextInstr = none) ∨
    (∃ i, s.nextInstr = some i ∧ i.isCommand = true) ∨
    (∃ i, s.nextInstr = some i ∧ s.phase = .decode .loop ∧ s.nextCommand = some i) := by
  cases hp : s.phase with
  | idle => exact .inl ⟨rfl, by rw [State.nextInstr, hp]⟩
  | decode p =>
    cases p with
    | clear => exact .inr (.inl ⟨_, by rw [State.nextInstr, hp], rfl⟩)
    | loop =>
      cases hn : s.nextCommand with
      | none => exact .inr (.inl ⟨_, State.nextInstr_decodeLoop hp hn, rfl⟩)
      | some i => exact .inr (.inr ⟨i, by simp only [State.nextInstr, hp, hn], rfl, rfl⟩)
  | nop | readUntil | readBlock | readFrame | send | transactS | transactG =>
    exact .inr (.inl ⟨_, by rw [State.nextInstr, hp], rfl⟩)

/-- The block's turn is a step of the running operation's command word, or, in DECODE's loop, of the
command at POS. -/
theorem blockTurn_next {s t : State} (h : blockTurn s = .next t) :
    (s.phase = .idle ∧ t = s) ∨
    (∃ i, i.isCommand = true ∧ exec i s = .next t) ∨
    (∃ i, s.phase = .decode .loop ∧ s.nextCommand = some i ∧ exec i s = .next t) := by
  rcases s.nextInstr_cases with ⟨hp, hn⟩ | ⟨i, hn, hi⟩ | ⟨i, hn, hp, hc⟩ <;>
    simp only [blockTurn, hn] at h
  · cases h
    exact .inl ⟨hp, rfl⟩
  · exact .inr (.inl ⟨i, hi, h⟩)
  · exact .inr (.inr ⟨i, hp, hc, h⟩)

/-- `step_next` with the two kinds of block turn as one: a step is an agent's turn once the schedule's
entry is used up, if there is one. -/
theorem step_agent {s t : State} (h : step s = .next t) : ∃ ts,
    blockTurn (s.setTurns ts) = .next t ∨
    (∃ w, exec (decodeWord w) (s.setTurns ts) = .next t) ∨
    (∃ a, hostAccess a (s.setTurns ts) = .done t) ∨
    (s.env.turns = .reset :: ts ∧ t = (s.setTurns ts).resetBlock) := by
  rcases step_next h with ⟨hts, hb⟩ | ⟨ts, -, hb⟩ | ⟨w, ts, -, -, he⟩ | ⟨a, ts, -, ha⟩ | ⟨ts, hr⟩
  · exact ⟨[], .inl (by rwa [State.setTurns_eq_self hts])⟩
  · exact ⟨ts, .inl hb⟩
  · exact ⟨ts, .inr (.inl ⟨w, he⟩)⟩
  · exact ⟨ts, .inr (.inr (.inl ⟨a, ha⟩))⟩
  · exact ⟨ts, .inr (.inr (.inr hr))⟩

/-- Everything a step can do, once the schedule's turn is used up: nothing, a move of a host command, a
command of the stream, a host access, or a reset. -/
theorem step_cases {s t : State} (h : step s = .next t) : ∃ ts,
    (s.phase = .idle ∧ t = s.setTurns ts) ∨
    (s.setTurns ts).Moves t ∨
    (∃ i, s.phase = .decode .loop ∧ s.nextCommand = some i ∧ exec i (s.setTurns ts) = .next t) ∨
    (∃ a, hostAccess a (s.setTurns ts) = .done t) ∨
    (s.env.turns = .reset :: ts ∧ t = (s.setTurns ts).resetBlock) := by
  obtain ⟨ts, hb | ⟨w, he⟩ | hhost | hreset⟩ := step_agent h <;> refine ⟨ts, ?_⟩
  · rcases blockTurn_next hb with hidle | ⟨i, hi, he⟩ | hstream
    · exact .inl hidle
    · exact .inr (.inl (exec_command_moves hi he))
    · exact .inr (.inr (.inl hstream))
  · exact .inr (.inl (exec_command_moves (decodeWord_isCommand w) he))
  · exact .inr (.inr (.inr (.inl hhost)))
  · exact .inr (.inr (.inr (.inr hreset)))

/-! ## The invariant over every step (O44) -/

theorem State.Inv.setTurns {s : State} (h : s.Inv) (ts : List Turn) : (s.setTurns ts).Inv :=
  { h with }

theorem State.Inv.ignoreAccess {s : State} (h : s.Inv) : s.ignoreAccess.Inv := { h with }

theorem State.Inv.reply {s : State} (h : s.Inv) (r : Reply) : (s.reply r).Inv := { h with }

theorem State.Inv.countDraw {s : State} (h : s.Inv) : s.countDraw.Inv := { h with }

theorem State.Accepted.control {t : State} (h : t.Accepted) : t.Control where
  busyNotDone _ := h.done
  busyNoErr _ := h.err
  frameFits := h.frame
  streamFits hd := (h.stream hd).2.1
  posFits hl := by
    have hclear := (h.stream (by rw [hl]; rfl)).1
    rw [hl] at hclear
    cases hclear
  kindLatched := h.kind

/-- The decoder keeps the operation's invariant while the bytes it consumes are there. -/
theorem State.Consumes.control {n : Nat} {s t : State} (h : s.Consumes n t) (hs : s.Control)
    (hfits : s.rd.pos.toNat + n ≤ s.regs.paylen.toNat) : t.Control := by
  obtain ⟨-, hcfg, hphase, hstatus, hlatch, htxlen, hpaylen, hpos⟩ := h
  have hbusy : t.busy = s.busy := by simp only [State.busy, hphase]
  refine ⟨?_, ?_, ?_, ?_, fun _ => ?_, ?_⟩
  · rw [hbusy, hstatus]; exact hs.busyNotDone
  · rw [hbusy, hstatus]; exact hs.busyNoErr
  · rw [hphase, htxlen, hcfg]; exact hs.frameFits
  · rw [hphase, hpaylen, hcfg]; exact hs.streamFits
  · rw [hpos, hpaylen]
    simp only [BitVec.toNat_add, BitVec.toNat_ofNat]
    omega
  · rw [hphase, hlatch]; exact hs.kindLatched

theorem State.Moves.sound {s t : State} (h : s.Moves t) (hs : s.Sound) : t.Sound := by
  cases h with
  | waits => exact hs
  | ignored => exact hs
  | accepts _ sound _ => exact sound hs
  | ends ends => exact ends.sound hs
  | goesOn _ runs _ => exact runs.sound hs
  | clears _ => exact hs.startDecode
  | decodes _ _ step => exact (decodeByte_consumes step).sound hs

/-- An operation that goes on outside DECODE is still not done, and its transaction of the same kind. -/
theorem State.RunsOn.control {s t : State} (h : s.RunsOn t) (hs : s.Control) (hb : s.phase ≠ .idle)
    (hp : s.phase.GoesOnIn t.phase) : t.Control := by
  obtain ⟨-, hsends, hdecodes, hkind⟩ := hp
  have hbusy := s.busy_iff.mpr hb
  exact {
    busyNotDone := fun _ => h.done.trans (hs.busyNotDone hbusy)
    busyNoErr := fun _ => h.err.trans (hs.busyNoErr hbusy)
    frameFits := fun ht => by simp [hsends] at ht
    streamFits := fun ht => by simp [hdecodes] at ht
    posFits := fun ht => by simp [ht, Phase.decodes] at hdecodes
    kindLatched := fun k hk => by rw [h.latch]; exact hs.kindLatched k (hkind ▸ hk) }

theorem State.Moves.control {s t : State} (h : s.Moves t) (hs : s.Control) : t.Control := by
  cases h with
  | waits => exact hs
  | ignored => exact { hs with }
  | accepts _ _ accepted => exact accepted.control
  | ends ends => exact State.control_of_idle ends.idle
  | goesOn busy runs phase => exact runs.control hs busy phase
  | clears phase =>
    have hbusy : s.busy = true := s.busy_iff.mpr (by simp [phase])
    exact {
      busyNotDone := fun _ => hs.busyNotDone hbusy
      busyNoErr := fun _ => hs.busyNoErr hbusy
      frameFits := nofun
      streamFits := fun _ => hs.streamFits (by rw [phase]; rfl)
      posFits := fun _ => Nat.zero_le _
      kindLatched := nofun }
  | decodes _ left step => exact (decodeByte_consumes step).control hs left

theorem State.Moves.inv {s t : State} (h : s.Moves t) (hs : s.Inv) : t.Inv := by
  obtain ⟨hsound, hcontrol⟩ := State.inv_iff.mp hs
  exact State.inv_iff.mpr ⟨h.sound hsound, h.control hcontrol⟩

theorem State.hostRegWrite_inv {s : State} (h : s.Inv) (off : Nat) (v : Word) :
    (s.hostRegWrite off v).Inv := by
  unfold State.hostRegWrite
  cases hb : s.busy
  · have hidle : s.phase = .idle := by simpa [State.busy] using hb
    have hsound := (State.inv_iff.mp h).1
    rw [if_neg nofun]
    split
    case _ | _ | _ => exact State.inv_iff.mpr ⟨hsound, State.control_of_idle hidle⟩
    case _ => exact h.ignoreAccess
  · exact h.ignoreAccess

theorem State.hostMemWrite_inv {s : State} (h : s.Inv) (sp : Space) (i : Nat) (v : Byte) :
    (s.hostMemWrite sp i v).Inv := by
  unfold State.hostMemWrite
  split
  · exact h.ignoreAccess
  · split
    · rename_i hi
      obtain ⟨hsound, hcontrol⟩ := State.inv_iff.mp h
      exact State.inv_iff.mpr ⟨hsound.store hi.1 v, { hcontrol with }⟩
    · exact h.ignoreAccess

theorem State.hostRegRead_inv {s : State} (h : s.Inv) (off : Nat) : (s.hostRegRead off).Inv := by
  unfold State.hostRegRead
  split
  · exact h.countDraw.reply _
  · exact h.reply _

theorem State.hostMemRead_inv {s : State} (h : s.Inv) (sp : Space) (i : Nat) :
    (s.hostMemRead sp i).Inv := by
  unfold State.hostMemRead
  split
  · exact h.countDraw.reply _
  · split
    · exact h.reply _
    · exact h.ignoreAccess.reply _

theorem hostAccess_inv {a : HostAccess} {s t : State} (h : hostAccess a s = .done t) (hs : s.Inv) :
    t.Inv := by
  rcases hostAccess_done h with ⟨off, rfl⟩ | ⟨off, v, rfl⟩ | ⟨sp, i, rfl⟩ | ⟨sp, i, v, rfl⟩
  · exact State.hostRegRead_inv hs off
  · exact State.hostRegWrite_inv hs off v
  · exact State.hostMemRead_inv hs sp i
  · exact State.hostMemWrite_inv hs sp i v

/-- A command of the stream, run where it stands whole before PAYLEN. -/
theorem exec_nextCommand_inv {s t : State} {i : Instr} (hp : s.phase = .decode .loop)
    (hn : s.nextCommand = some i) (h : exec i s = .next t) (hs : s.Inv) : t.Inv := by
  obtain ⟨hsound, hcontrol⟩ := State.inv_iff.mp hs
  obtain ⟨-, rest, hd⟩ := State.nextCommand_some hn
  have hc := exec_stream_consumes (decodeStream_ok hd).1 h
  exact State.inv_iff.mpr
    ⟨hc.sound hsound, hc.control hcontrol (State.nextCommand_fits hn (hs.posFits hp))⟩

theorem State.Inv.resetBlock {s : State} (h : s.Inv) : s.resetBlock.Inv :=
  { State.resetWith_inv h.cfgLegal with }

/-- Settles O44: each way to take a step keeps the invariant. -/
theorem everyStepKeepsTheInvariant : Obligations.EveryStepKeepsTheInvariant := by
  intro s t hs h
  obtain ⟨ts, ⟨-, rfl⟩ | hm | ⟨i, hp, hn, he⟩ | ⟨a, ha⟩ | ⟨-, rfl⟩⟩ := step_cases h
  · exact hs.setTurns ts
  · exact hm.inv (hs.setTurns ts)
  · exact exec_nextCommand_inv (s := s.setTurns ts) hp hn he (hs.setTurns ts)
  · exact hostAccess_inv ha (hs.setTurns ts)
  · exact (hs.setTurns ts).resetBlock

/-! ## The decoder's invariant (O46, O47, O48) -/

/-- The decoder's invariant inside DECODE's loop, whatever PHASE is. -/
structure State.Counted (s : State) : Prop where
  located : s.rd.Located
  ycurBound : 5 * s.regs.ycur.toNat ≤ 8 * s.rd.itemStart
  unrecBound : 2 * s.regs.unrec.toNat ≤ s.rd.itemStart

theorem State.DecodeInv.counted {s : State} (h : s.DecodeInv) (hp : s.phase = .decode .loop) :
    s.Counted :=
  ⟨h.located hp, h.ycurBound hp, h.unrecBound hp⟩

theorem State.Counted.decodeInv {s : State} (h : s.Counted) (hp : s.phase = .decode .loop) :
    s.DecodeInv where
  cleared hc := by rw [hp] at hc; cases hc
  located _ := h.located
  ycurBound _ := h.ycurBound
  unrecBound _ := h.unrecBound

/-- Outside a decode there is nothing to keep. -/
theorem State.decodeInv_of_not_decodes {s : State} (h : s.phase.decodes = false) :
    s.DecodeInv where
  cleared hp := by rw [hp] at h; cases h
  located hp := by rw [hp] at h; cases h
  ycurBound hp := by rw [hp] at h; cases h
  unrecBound hp := by rw [hp] at h; cases h

theorem State.decodeInv_of_idle {s : State} (h : s.phase = .idle) : s.DecodeInv :=
  State.decodeInv_of_not_decodes (by rw [h]; rfl)

/-- Settles O46: after reset no decode runs. -/
theorem decodeInvariantHoldsAtReset : Obligations.DecodeInvariantHoldsAtReset :=
  ⟨fun _ _ => State.decodeInv_of_idle rfl, State.decodeInv_of_idle rfl⟩

theorem State.counted_of_text {t : State} (hp : t.rd.pstate = .text)
    (hycur : 5 * t.regs.ycur.toNat ≤ 8 * t.rd.pos.toNat)
    (hunrec : 2 * t.regs.unrec.toNat ≤ t.rd.pos.toNat) : t.Counted := by
  have hstart : t.rd.itemStart = t.rd.pos.toNat := if_pos hp
  exact ⟨by simp only [Raster.Located, hp], hstart ▸ hycur, hstart ▸ hunrec⟩

theorem State.counted_inside {t : State} (hp : t.rd.pstate ≠ .text) (hloc : t.rd.Located)
    (hycur : 5 * t.regs.ycur.toNat ≤ 8 * t.rd.cmdstart.toNat)
    (hunrec : 2 * t.regs.unrec.toNat ≤ t.rd.cmdstart.toNat) : t.Counted := by
  have hstart : t.rd.itemStart = t.rd.cmdstart.toNat := if_neg hp
  exact ⟨hloc, hstart ▸ hycur, hstart ▸ hunrec⟩

theorem State.advanceRow_ycur_le (s : State) :
    s.advanceRow.regs.ycur.toNat ≤ s.regs.ycur.toNat + 8 := by
  simp only [State.advanceRow_regs, BitVec.toNat_add, BitVec.reduceToNat]
  omega

theorem State.countUnrec_unrec_le (s : State) :
    s.countUnrec.regs.unrec.toNat ≤ s.regs.unrec.toNat + 1 := by
  simp only [State.countUnrec_regs, BitVec.toNat_add, BitVec.reduceToNat]
  omega

/-- A command begins at or before POS. -/
theorem Raster.Located.itemStart_le {rd : Raster} (h : rd.Located) : rd.itemStart ≤ rd.pos.toNat := by
  cases hp : rd.pstate <;>
    simp only [Raster.Located, Raster.itemStart, hp, reduceCtorEq, if_true, if_false] at h ⊢ <;>
    omega

/-- `DecodeStep` on `u`, where POS has moved past the byte that stood at `s`, keeps the bounds: a command
pays for its row and its count with its own bytes (R33, R34, R162). -/
theorem decodeStep_counted {b : Byte} {s u t : State} (hs : s.Counted)
    (hrd : u.rd = { s.rd with pos := u.rd.pos }) (hregs : u.regs = s.regs)
    (hpos : u.rd.pos.toNat = s.rd.pos.toNat + 1) (h : decodeStep b u = .ok t) : t.Counted := by
  obtain ⟨hloc, hycur, hunrec⟩ := hs
  have hle := hloc.itemStart_le
  have hpstate : u.rd.pstate = s.rd.pstate := by rw [hrd]
  have hcmd : s.rd.cmdstart = u.rd.cmdstart := by rw [hrd]
  have hxc : s.rd.xc = u.rd.xc := by rw [hrd]
  have hnx : s.rd.nx = u.rd.nx := by rw [hrd]
  rw [← hregs] at hycur hunrec
  have hycurEnd : 5 * u.regs.ycur.toNat ≤ 8 * u.rd.pos.toNat := by omega
  have hunrecEnd : 2 * u.regs.unrec.toNat ≤ u.rd.pos.toNat := by omega
  have hrow := u.advanceRow_ycur_le
  cases hp : s.rd.pstate <;>
    simp only [decodeStep, hpstate, hp] at h <;>
    simp only [Raster.Located, Raster.itemStart, hp, hcmd, hxc, hnx, reduceCtorEq, if_true, if_false]
      at hloc hycur hunrec
  case text =>
    split at h <;> cases h
    · have hback : (u.rd.pos - 1).toNat = s.rd.pos.toNat := by
        simp only [BitVec.toNat_sub, BitVec.reduceToNat]; omega
      exact State.counted_inside nofun (show u.rd.pos.toNat = (u.rd.pos - 1).toNat + 1 by omega)
        (hback ▸ hycur) (hback ▸ hunrec)
    · exact State.counted_of_text (hpstate.trans hp) hycurEnd hunrecEnd
  case esc =>
    have hlocNext : u.rd.pos.toNat = u.rd.cmdstart.toNat + 2 := by omega
    split at h <;> cases h
    · exact State.counted_of_text rfl hycurEnd hunrecEnd
    · exact State.counted_inside nofun hlocNext hycur hunrec
    · exact State.counted_inside nofun hlocNext hycur hunrec
    · exact State.counted_inside nofun hlocNext hycur hunrec
    · exact State.counted_of_text rfl hycurEnd hunrecEnd
    · have hcount := u.countUnrec_unrec_le
      exact State.counted_of_text rfl hycurEnd
        (show 2 * u.countUnrec.regs.unrec.toNat ≤ u.rd.pos.toNat by omega)
  case biMode =>
    cases h
    exact State.counted_inside nofun (show u.rd.pos.toNat = u.rd.cmdstart.toNat + 3 by omega)
      hycur hunrec
  case biNl =>
    cases h
    exact State.counted_inside nofun (show u.rd.pos.toNat = u.rd.cmdstart.toNat + 4 by omega)
      hycur hunrec
  case biNh =>
    split at h <;> cases h
    · exact State.counted_of_text rfl
        (show 5 * u.advanceRow.regs.ycur.toNat ≤ 8 * u.rd.pos.toNat by omega) hunrecEnd
    · rename_i hne
      have hlocNext : u.rd.pos.toNat = u.rd.cmdstart.toNat + 5 := by omega
      have hcolumns : 0 < (columnCount u.rd.nl b).toNat :=
        Nat.pos_of_ne_zero fun h0 => hne (BitVec.eq_of_toNat_eq h0)
      exact State.counted_inside nofun ⟨hlocNext, hcolumns⟩ hycur hunrec
  case biData =>
    obtain ⟨hat, hcolumn⟩ := hloc
    have hxcNext : (u.rd.xc + 1).toNat = u.rd.xc.toNat + 1 := by
      simp only [BitVec.toNat_add, BitVec.reduceToNat]; omega
    split at h
    · cases h
    · split at h <;> cases h
      · exact State.counted_of_text rfl
          (show 5 * u.advanceRow.regs.ycur.toNat ≤ 8 * u.rd.pos.toNat by omega) hunrecEnd
      · rename_i hne
        have hlocNext : u.rd.pos.toNat = u.rd.cmdstart.toNat + 5 + (u.rd.xc + 1).toNat ∧
            (u.rd.xc + 1).toNat < u.rd.nx.toNat := by
          have hmore := mt BitVec.eq_of_toNat_eq hne
          omega
        refine State.counted_inside (by simp [hpstate, hp]) ?_ hycur hunrec
        simpa only [Raster.Located, State.setColumns_rd, State.setBuf_rd, hpstate, hp] using hlocNext
  case operand =>
    cases h
    exact State.counted_of_text rfl hycurEnd hunrecEnd

theorem decodeByte_counted {s t : State} (hs : s.Counted) (hlt : s.rd.pos.toNat < 2 ^ 28)
    (h : decodeByte s = .ok t) : t.Counted := by
  refine decodeStep_counted (u := s.advancePos) hs rfl rfl ?_ (decodeByte_ok h)
  simp only [State.advancePos_rd, BitVec.toNat_add, BitVec.reduceToNat]
  omega

/-- What a whole command of the stream does to the cursor and the count, against its length. -/
theorem exec_stream_counters {i : Instr} (hi : i.isCommand = false) {s t : State}
    (hp : s.rd.pstate = .text) (h : exec i s = .next t) : t.rd.pstate = .text ∧
      5 * t.regs.ycur.toNat ≤ 5 * s.regs.ycur.toNat + 8 * i.length ∧
      2 * t.regs.unrec.toNat ≤ 2 * s.regs.unrec.toNat + i.length := by
  have hrow := s.advanceRow_ycur_le
  have hcount := s.countUnrec_unrec_le
  cases i with
  | escBitimg mode nx data =>
    obtain ⟨m, -, rfl⟩ := execEscBitimg_ok (mode := mode) h
    refine ⟨rfl, ?_, Nat.le_add_right ..⟩
    show 5 * s.advanceRow.regs.ycur.toNat ≤ 5 * s.regs.ycur.toNat + 8 * (5 + nx.toNat)
    omega
  | escUnrec sel =>
    cases h
    refine ⟨rfl, Nat.le_add_right .., ?_⟩
    show 2 * s.countUnrec.regs.unrec.toNat ≤ 2 * s.regs.unrec.toNat + 2
    omega
  | txt => cases h; exact ⟨hp, Nat.le_add_right .., Nat.le_add_right ..⟩
  | escReset | escLsp | escFam | escPitch =>
    cases h; exact ⟨rfl, Nat.le_add_right .., Nat.le_add_right ..⟩
  | nop | readUntil | readBlock | readFrame | send | transactS | transactG | decode | badOp7
  | badOp8F | badReserved => cases hi

/-- A whole command before PAYLEN keeps the bounds. -/
theorem exec_stream_counted {i : Instr} (hi : i.isCommand = false) {s t : State} (hs : s.Counted)
    (hp : s.rd.pstate = .text) (hfits : s.rd.pos.toNat + i.length < 2 ^ 32)
    (h : exec i s = .next t) : t.Counted := by
  obtain ⟨hpNext, hycur, hunrec⟩ := exec_stream_counters hi hp h
  have hpos : t.rd.pos.toNat = s.rd.pos.toNat + i.length := by
    rw [(exec_stream_consumes hi h).pos, BitVec.toNat_add, BitVec.toNat_ofNat]
    omega
  have hycur' := hs.ycurBound
  have hunrec' := hs.unrecBound
  have hle := hs.located.itemStart_le
  exact State.counted_of_text hpNext (by omega) (by omega)

/-! ### Over every step -/

/-- POS stays far below the wrap of its register (R8, R23). -/
theorem State.Inv.paylen_le {s : State} (h : s.Inv) (hp : s.phase = .decode .loop) :
    s.regs.paylen.toNat ≤ 2 ^ 28 := by
  obtain ⟨-, -, -, -, ⟨-, hcap⟩, -⟩ := h.cfgLegal
  exact (h.streamFits (by rw [hp]; rfl)).trans hcap

theorem State.DecodeInv.setTurns {s : State} (h : s.DecodeInv) (ts : List Turn) :
    (s.setTurns ts).DecodeInv := { h with }

theorem State.Accepted.decodeInv {t : State} (h : t.Accepted) : t.DecodeInv := by
  cases hd : t.phase.decodes
  · exact State.decodeInv_of_not_decodes hd
  · obtain ⟨hclear, -, hzero⟩ := h.stream hd
    exact ⟨fun _ => hzero, by simp [hclear], by simp [hclear], by simp [hclear]⟩

/-- The decoder's initial values, with the counters the acceptance cleared (R89, R160). -/
theorem State.DecodeInv.startDecode {s : State} (h : s.DecodeInv) (hp : s.phase = .decode .clear) :
    (s.startDecode.enter (.decode .loop)).DecodeInv := by
  obtain ⟨hycur, hunrec⟩ := h.cleared hp
  exact State.Counted.decodeInv (State.counted_of_text rfl (by simp [hycur]) (by simp [hunrec])) rfl

theorem State.Moves.decodeInv {s t : State} (h : s.Moves t) (hs : s.Inv) (hd : s.DecodeInv) :
    t.DecodeInv := by
  cases h with
  | waits => exact hd
  | ignored => exact { hd with }
  | accepts _ _ accepted => exact accepted.decodeInv
  | ends ends => exact State.decodeInv_of_idle ends.idle
  | goesOn _ _ phase =>
    obtain ⟨-, -, hdecodes, -⟩ := phase
    exact State.decodeInv_of_not_decodes hdecodes
  | clears phase => exact hd.startDecode phase
  | decodes phase left step =>
    have hlt := left.trans_le (hs.paylen_le phase)
    exact (decodeByte_counted (hd.counted phase) hlt step).decodeInv
      ((decodeByte_consumes step).phase.trans phase)

theorem exec_nextCommand_decodeInv {s t : State} {i : Instr} (hp : s.phase = .decode .loop)
    (hn : s.nextCommand = some i) (h : exec i s = .next t) (hs : s.Inv) (hd : s.DecodeInv) :
    t.DecodeInv := by
  obtain ⟨htext, rest, hdec⟩ := State.nextCommand_some hn
  have hi := (decodeStream_ok hdec).1
  have hfits := State.nextCommand_fits hn (hs.posFits hp)
  have hcap := hs.paylen_le hp
  exact (exec_stream_counted hi (hd.counted hp) htext (by omega) h).decodeInv
    ((exec_stream_consumes hi h).phase.trans hp)

/-- A host access moves neither PHASE nor the decoder, and stores no register while busy (R22, R61). -/
theorem hostAccess_frame {a : HostAccess} {s t : State} (h : hostAccess a s = .done t) :
    t.phase = s.phase ∧ t.rd = s.rd ∧ (s.busy = true → t.regs = s.regs) := by
  rcases hostAccess_done h with ⟨off, rfl⟩ | ⟨off, v, rfl⟩ | ⟨sp, i, rfl⟩ | ⟨sp, i, v, rfl⟩
  · unfold State.hostRegRead
    split <;> exact ⟨rfl, rfl, fun _ => rfl⟩
  · unfold State.hostRegWrite
    split
    · exact ⟨rfl, rfl, fun _ => rfl⟩
    · rename_i hb
      split <;> exact ⟨rfl, rfl, fun hb' => absurd hb' hb⟩
  · unfold State.hostMemRead
    split
    · exact ⟨rfl, rfl, fun _ => rfl⟩
    · split <;> exact ⟨rfl, rfl, fun _ => rfl⟩
  · unfold State.hostMemWrite
    split
    · exact ⟨rfl, rfl, fun _ => rfl⟩
    · split <;> exact ⟨rfl, rfl, fun _ => rfl⟩

theorem hostAccess_decodeInv {a : HostAccess} {s t : State} (h : hostAccess a s = .done t)
    (hd : s.DecodeInv) : t.DecodeInv := by
  obtain ⟨hphase, hrd, hregs⟩ := hostAccess_frame h
  by_cases hp : s.phase = .idle
  · exact State.decodeInv_of_idle (hphase.trans hp)
  · obtain ⟨hcleared, hloc, hycur, hunrec⟩ := hd
    refine ⟨?_, ?_, ?_, ?_⟩ <;> rw [hphase] <;> simp only [hregs (s.busy_iff.mpr hp), hrd] <;>
      assumption

/-- Settles O47: each way to take a step keeps the decoder's invariant. -/
theorem everyStepKeepsTheDecodeInvariant : Obligations.EveryStepKeepsTheDecodeInvariant := by
  intro s t hs hd h
  obtain ⟨ts, ⟨-, rfl⟩ | hm | ⟨i, hp, hn, he⟩ | ⟨a, ha⟩ | ⟨-, rfl⟩⟩ := step_cases h
  · exact hd.setTurns ts
  · exact hm.decodeInv (hs.setTurns ts) (hd.setTurns ts)
  · exact exec_nextCommand_decodeInv (s := s.setTurns ts) hp hn he (hs.setTurns ts) (hd.setTurns ts)
  · exact hostAccess_decodeInv ha (hd.setTurns ts)
  · exact State.decodeInv_of_idle rfl

/-- Settles O48: a command begins at or before POS, and POS is at most PAYLEN. -/
theorem decodeCountersAreBounded : Obligations.DecodeCountersAreBounded := by
  intro s hs hd hp
  obtain ⟨hloc, hycur, hunrec⟩ := hd.counted hp
  have hstart := hloc.itemStart_le
  have hpos := hs.posFits hp
  have haligned := hs.ycurAligned
  have hcap := hs.paylen_le hp
  exact ⟨by omega, by omega, by omega⟩

/-! ## The end of an operation (O53) -/

theorem State.Moves.done_of_idle {s t : State} (h : s.Moves t) (hb : s.phase ≠ .idle)
    (ht : t.phase = .idle) : t.status.done = true := by
  cases h with
  | waits => exact absurd ht hb
  | ignored => exact absurd ht hb
  | accepts idle _ _ => exact absurd idle hb
  | ends ends => exact ends.done
  | goesOn _ _ phase => exact absurd ht phase.1
  | clears _ => cases ht
  | decodes _ _ step => exact absurd ((decodeByte_consumes step).phase.symm.trans ht) hb

/-- Settles O53: of all a step can do, only the end of an operation and a reset leave a busy block
idle. -/
theorem endedOperationIsDone : Obligations.EndedOperationIsDone := by
  intro s t hb hreset h ht
  have hbusy := s.busy_iff.mp hb
  have hidle : t.phase = .idle := by simpa [State.busy] using ht
  obtain ⟨ts, ⟨hp, -⟩ | hm | ⟨i, -, hn, he⟩ | ⟨a, ha⟩ | ⟨hr, -⟩⟩ := step_cases h
  · exact absurd hp hbusy
  · exact hm.done_of_idle hbusy hidle
  · obtain ⟨-, rest, hd⟩ := State.nextCommand_some hn
    have hphase := (exec_stream_consumes (decodeStream_ok hd).1 he).phase
    exact absurd (hphase.symm.trans hidle) hbusy
  · exact absurd ((hostAccess_frame ha).1.symm.trans hidle) hbusy
  · exact absurd (by rw [hr]; rfl) hreset

/-! ## The host's turn (O6, O40) -/

theorem step_of_host {s : State} {a : HostAccess} {ts : List Turn}
    (h : s.env.turns = .host a :: ts) : step s = hostTurn a (s.setTurns ts) := by
  simp only [step, h]

/-- A host access that is no command leaves the state it comes to. -/
theorem step_of_hostAccess_done {s t : State} {a : HostAccess} {ts : List Turn}
    (h : s.env.turns = .host a :: ts) (ha : hostAccess a (s.setTurns ts) = .done t) :
    step s = .next t := by
  rw [step_of_host h, hostTurn, ha]

/-- Settles O6: offset 0 of an idle block is CMD. -/
theorem stepRunsTheCommandWord : Obligations.StepRunsTheCommandWord := by
  intro s w ts ht hp
  have hcommand : hostAccess (.regWrite 32 0 w) (s.setTurns ts) = .command w := by
    simp [hostAccess, validRegister, State.busy, hp]
  rw [step_of_host ht, hostTurn, hcommand]

/-- The accesses the interface has (R22). -/
theorem validRegister_iff {width off : Nat} :
    validRegister width off = true ↔ width = 32 ∧ off % 4 = 0 ∧ off < 0x1000 := by
  simp [validRegister, and_assoc]

/-- Settles O40. -/
theorem foreignRegisterAccessIsRefused : Obligations.ForeignRegisterAccessIsRefused := by
  intro s width off v ts hforeign
  have hinvalid : validRegister width off = false := by
    rw [← Bool.not_eq_true, validRegister_iff]; omega
  constructor <;> intro ht <;> simp [step_of_host ht, hostTurn, hostAccess, hinvalid]

/-! ## Accesses the interface has -/

section
variable {s : State} {off : Nat} {ts : List Turn}

theorem step_regRead (hoff : off % 4 = 0) (hlt : off < 0x1000)
    (ht : s.env.turns = .host (.regRead 32 off) :: ts) :
    step s = .next ((s.setTurns ts).hostRegRead off) :=
  step_of_hostAccess_done ht (if_pos (validRegister_iff.mpr ⟨rfl, hoff, hlt⟩))

/-- A register write that is not one of an idle block's CMD. -/
theorem step_regWrite {v : Word} (hoff : off % 4 = 0) (hlt : off < 0x1000)
    (hcmd : off ≠ 0 ∨ s.busy = true) (ht : s.env.turns = .host (.regWrite 32 off v) :: ts) :
    step s = .next ((s.setTurns ts).hostRegWrite off v) := by
  have hno : ¬ (off = 0 ∧ (s.setTurns ts).busy = false) := by
    rintro ⟨h0, hb⟩
    rcases hcmd with hne | hbusy
    · exact hne h0
    · exact Bool.false_ne_true (hb.symm.trans hbusy)
  exact step_of_hostAccess_done ht
    ((if_pos (validRegister_iff.mpr ⟨rfl, hoff, hlt⟩)).trans (if_neg hno))

end

/-! ## Registers (O35, O36, O37) -/

/-- ERR stands in bits [7:4] (R25). -/
theorem Status.word_err (st : Status) (busy : Bool) :
    (st.word busy).extractLsb' 4 4 = st.err.code := by
  unfold Status.word
  iterate 4 rw [BitVec.extractLsb'_append_eq_of_le (by decide)]
  exact BitVec.extractLsb'_append_eq_right

/-- Bits [31:14] are reserved (R25, R41). -/
theorem Status.word_reserved (st : Status) (busy : Bool) :
    (st.word busy).extractLsb' 14 18 = 0 := by
  unfold Status.word
  iterate 11 rw [BitVec.extractLsb'_append_eq_of_le (by decide)]
  exact BitVec.extractLsb'_eq_self

/-- Settles O35: the one-bit fields by the place of each in the word, ERR by R210's table. -/
theorem statusWordLayout : Obligations.StatusWordLayout := by
  intro s
  have herr : s.status.err.code = (match s.status.err with
      | .noError => 0
      | .readFail => 1
      | .readTimeout => 2
      | .writeFail => 3
      | .tokenOverflow => 4
      | .lengthFormat => 5
      | .badCommand => 6) := by
    cases s.status.err <;> rfl
  refine ⟨?_, ?_, ?_, ?_, (Status.word_err ..).trans herr, ?_, ?_, ?_, ?_, ?_, ?_,
    Status.word_reserved ..⟩
  all_goals
    simp only [State.register, Status.word, BitVec.getLsbD_append]
    simp

/-- The two halves of a register (R36, R37). -/
theorem extract_halves (hi lo : BitVec 16) :
    (hi ++ lo : Word).extractLsb' 0 16 = lo ∧ (hi ++ lo : Word).extractLsb' 16 16 = hi :=
  ⟨BitVec.extractLsb'_append_eq_right, BitVec.extractLsb'_append_eq_left⟩

/-- A register of two byte fields (R32, R40). -/
theorem extract_bytes (hi : BitVec 16) (mid lo : Byte) :
    (hi ++ mid ++ lo : Word).extractLsb' 0 8 = lo ∧ (hi ++ mid ++ lo : Word).extractLsb' 8 8 = mid ∧
      (hi ++ mid ++ lo : Word).extractLsb' 16 16 = hi := by
  refine ⟨BitVec.extractLsb'_append_eq_right, ?_, ?_⟩
  · rw [BitVec.extractLsb'_append_eq_of_le (by decide)]
    exact BitVec.extractLsb'_append_eq_right
  · iterate 2 rw [BitVec.extractLsb'_append_eq_of_le (by decide)]
    exact BitVec.extractLsb'_eq_self

/-- The offsets from 0x40 on are reserved (R21, R41). -/
theorem State.register_reserved (s : State) {off : Nat} (h : 0x40 ≤ off) : s.register off = 0 := by
  unfold State.register
  split
  case h_16 => rfl
  all_goals omega

/-- Settles O36: the reply is `State.register`, read off at each offset. -/
theorem idleRegisterReads : Obligations.IdleRegisterReads := by
  intro s off ts hp hoff hlt ht
  have hidle : (s.setTurns ts).busy = false := State.busy_idle (s.setTurns ts) hp
  refine ⟨s.register off, ?_, ?_⟩
  · rw [step_regRead hoff hlt ht, State.hostRegRead, hidle]
    rfl
  · refine ⟨?_, ?_, ?_, ?_, ?_, ?_, ?_, ?_, ?_, ?_, ?_, ?_, ?_, ?_, ?_, ?_, s.register_reserved⟩ <;>
      rintro rfl
    case refine_2 => exact congrArg s.status.word hidle
    case refine_8 | refine_16 => exact extract_bytes ..
    case refine_12 | refine_13 => exact extract_halves ..
    all_goals rfl

/-- Settles O37. -/
theorem idleRegisterWrites : Obligations.IdleRegisterWrites := by
  intro s off v ts hp hoff hlt hne ht
  have hidle : (s.setTurns ts).busy = false := State.busy_idle (s.setTurns ts) hp
  rw [step_regWrite hoff hlt (.inl hne) ht]
  unfold State.hostRegWrite
  rw [if_neg (Bool.eq_false_iff.mp hidle)]
  refine ⟨?_, ?_, ?_, fun h8 hC h18 => ?_⟩
  · rintro rfl; rfl
  · rintro rfl; rfl
  · rintro rfl; rfl
  · split
    case _ | _ | _ => contradiction
    case _ => rfl

/-! ## Accesses to a busy block (O38) -/

section
variable {s : State} (hb : s.busy = true)
include hb

theorem State.hostRegWrite_busy (off : Nat) (v : Word) : s.hostRegWrite off v = s.ignoreAccess :=
  if_pos hb

theorem State.hostMemWrite_busy (sp : Space) (i : Nat) (v : Byte) :
    s.hostMemWrite sp i v = s.ignoreAccess :=
  if_pos hb

theorem State.hostRegRead_busy (off : Nat) :
    s.hostRegRead off = s.countDraw.reply (.word (if off = 0x04
      then s.status.busyWord (Config.drawWord s.env.draws) else Config.drawWord s.env.draws)) :=
  if_pos hb

theorem State.hostMemRead_busy (sp : Space) (i : Nat) :
    s.hostMemRead sp i = s.countDraw.reply (.byte (Config.drawByte s.env.draws)) :=
  if_pos hb

end

/-- STATUS of a busy block, whatever the draw (R26, R41). -/
theorem Status.busyWord_layout (st : Status) (d : Word) :
    (st.busyWord d).getLsbD 0 = true ∧ (st.busyWord d).getLsbD 1 = false ∧
    (st.busyWord d).getLsbD 2 = st.hostErr ∧ (st.busyWord d).getLsbD 3 = false ∧
    (st.busyWord d).extractLsb' 14 18 = 0 := by
  have hmask : (0x3FF0#32).extractLsb' 14 18 = 0 := by decide
  have hbusy : (1#32).extractLsb' 14 18 = 0 := by decide
  have hhostErr : (((BitVec.ofBool st.hostErr).setWidth 32) <<< 2 : Word).extractLsb' 14 18 = 0 := by
    cases st.hostErr <;> decide
  refine ⟨?_, ?_, ?_, ?_, ?_⟩
  case refine_5 =>
    simp [Status.busyWord, BitVec.extractLsb'_or, BitVec.extractLsb'_and, hmask, hbusy, hhostErr]
  all_goals simp [Status.busyWord]

/-- Settles O38. -/
theorem busyHostAccesses : Obligations.BusyHostAccesses := by
  intro s ts hp
  have hb : s.busy = true := s.busy_iff.mpr hp
  refine ⟨fun off v hoff hlt ht => ?_, fun sp i v ht => ?_, fun off hoff hlt ht => ?_,
    fun sp i ht => ?_⟩
  · rw [step_regWrite hoff hlt (.inr hb) ht, State.hostRegWrite_busy (s := s.setTurns ts) hb]
    rfl
  · rw [step_of_hostAccess_done ht rfl, State.hostMemWrite_busy (s := s.setTurns ts) hb]
    rfl
  · refine ⟨if off = 0x04 then s.status.busyWord (Config.drawWord s.env.draws)
      else Config.drawWord s.env.draws, s.env.draws + 1, ?_, ?_⟩
    · rw [step_regRead hoff hlt ht, State.hostRegRead_busy (s := s.setTurns ts) hb]
      rfl
    · rintro rfl
      exact s.status.busyWord_layout _
  · refine ⟨Config.drawByte s.env.draws, s.env.draws + 1, ?_⟩
    rw [step_of_hostAccess_done ht rfl, State.hostMemRead_busy (s := s.setTurns ts) hb]
    rfl

end Sys2Proof.Machine

/-! PROOFS. The statements of spec/20_memory.md: the block's buffer accesses stay inside their buffers, the
host's buffer accesses, what a running operation keeps, and the command the block runs from PAYLOAD. -/

namespace Sys2Proof.Machine

/-! ## No fault (O45)

Every buffer index of the block is bounded by a length register or by POS, and the invariant bounds those
by the buffer's size (R62). -/

theorem conclude_no_fault {π : Type} {s : State} {into : π → Phase}
    {p : Except Fault (Progress π)} {f : Fault} (hp : p ≠ .error f) :
    conclude s into p ≠ .fault f :=
  fun h => hp (conclude_fault h)

theorem Progress.within_no_fault {π ρ : Type} {into : π → ρ}
    {ret : State → Except Fault (Progress ρ)} {p : Except Fault (Progress π)} {f : Fault}
    (hp : p ≠ .error f) (hret : ∀ t, p = .ok (.done t) → ret t ≠ .error f) :
    Progress.within into ret p ≠ .error f := by
  intro h
  rcases Progress.within_error h with he | ⟨t, ht, he⟩
  · exact hp he
  · exact hret t ht he

/-! ### The frame reader -/

theorem State.parseDigits_no_fault {s : State} {n i : Nat} (h : i + n ≤ s.cfg.tokenCap) (v : Nat)
    (f : Fault) : s.parseDigits n i v ≠ .error f := by
  induction n generalizing i v with
  | zero => nofun
  | succ n ih =>
    have hi : i < Space.strbuf.size s.cfg := show i < s.cfg.tokenCap by omega
    simp only [State.parseDigits, State.blockRead_of_lt hi]
    split
    · nofun
    · split
      · nofun
      · exact ih (by omega) _

/-- `ParseDecimal` reads STRBUF below STRLEN (R131). -/
theorem State.parseDecimal_no_fault {s : State} (h : s.regs.strlen.toNat ≤ s.cfg.tokenCap)
    (f : Fault) : s.parseDecimal ≠ .error f := by
  unfold State.parseDecimal
  split
  · nofun
  · exact State.parseDigits_no_fault (by rwa [Nat.zero_add]) 0 f

/-- `SendCommand` reads TXBUF below TXLEN (R137). -/
theorem sendCommand_no_fault {s : State} (h : s.regs.txlen.toNat ≤ s.cfg.txCap) (f : Fault) :
    sendCommand s ≠ .error f := by
  unfold sendCommand
  rw [State.txFrame_of_le h]
  dsimp only
  split
  · nofun
  · split <;> nofun
  · nofun

/-- `AckOk` reads the first byte of ACKBUF, which every configuration has (R142). -/
theorem State.ackIsOk_eq {s : State} (h : 1 ≤ s.cfg.tokenCap) :
    s.ackIsOk =
      .ok (decide (1 ≤ s.regs.acklen.toNat) && decide (s.byteAt .ackbuf 0 = 0x30)) := by
  rw [State.ackIsOk, State.blockRead_of_lt (show 0 < Space.ackbuf.size s.cfg from h)]
  split <;> simp [*]

theorem State.recordAck_no_fault {s : State} (h : 1 ≤ s.cfg.tokenCap) (f : Fault) :
    s.recordAck ≠ .error f := by
  rw [State.recordAck, State.ackIsOk_eq h]
  nofun

theorem Config.tokenCap_pos {c : Config} (h : c.Legal) : 1 ≤ c.tokenCap := by
  obtain ⟨-, -, ⟨hcap, -⟩, -⟩ := h
  exact hcap

theorem ackStep_no_fault {π : Type} {s : State} (hs : s.Inv) (t : TokenPhase)
    (into : TokenPhase → π) (onSuccess : π) (f : Fault) :
    ackStep t into onSuccess s ≠ .error f := by
  refine Progress.within_no_fault (tokenStep_no_fault _ _ _ _ f) fun u hu => ?_
  have hcfg : u.cfg = s.cfg := (tokenStep_takesRead t carriageReturn true s _ hu).1
  have hcap : 1 ≤ u.cfg.tokenCap := hcfg ▸ Config.tokenCap_pos hs.cfgLegal
  split
  · exact fun _ => absurd ‹_› (State.recordAck_no_fault hcap _)
  · nofun

theorem frameStep_no_fault {s : State} (hs : s.Inv) (p : FramePhase) (f : Fault) :
    frameStep p s ≠ .error f := by
  cases p with
  | token t => exact Progress.within_no_fault (tokenStep_no_fault _ _ _ _ f) fun _ _ => nofun
  | block b => exact Progress.within_no_fault (blockStep_no_fault _ _ f) fun _ _ => nofun
  | parse =>
    unfold frameStep
    dsimp only
    split
    · exact absurd ‹_› (State.parseDecimal_no_fault hs.strlenFits _)
    · nofun
    · nofun

theorem simpleStep_no_fault {s : State} (hs : s.Inv) {p : SimplePhase} (hp : s.phase = .transactS p)
    (f : Fault) : simpleStep p s ≠ .error f := by
  cases p with
  | send =>
    have hfits := hs.frameFits (by rw [hp]; rfl)
    exact Progress.within_no_fault (sendCommand_no_fault hfits f) fun _ _ => nofun
  | ack t => exact ackStep_no_fault hs t _ _ f
  | second t => exact Progress.within_no_fault (tokenStep_no_fault _ _ _ _ f) fun _ _ => nofun

theorem graphicsStep_no_fault {s : State} (hs : s.Inv) {p : GraphicsPhase}
    (hp : s.phase = .transactG p) (f : Fault) : graphicsStep p s ≠ .error f := by
  cases p with
  | send =>
    have hfits := hs.frameFits (by rw [hp]; rfl)
    exact Progress.within_no_fault (sendCommand_no_fault hfits f) fun _ _ => nofun
  | ack t => exact ackStep_no_fault hs t _ _ f
  | frame q => exact Progress.within_no_fault (frameStep_no_fault hs q f) fun _ _ => nofun

/-! ### The raster decoder -/

/-- Of the states of R162's machine only BI_DATA accesses a buffer, and it paints inside BITMAP. -/
theorem decodeStep_no_fault {s : State} (hc : s.cfg.Legal) (b : Byte) (f : Fault) :
    decodeStep b s ≠ .error f := by
  cases hp : s.rd.pstate <;> simp only [decodeStep, hp]
  case text | esc | biNh => split <;> nofun
  case biMode | biNl | operand => nofun
  case biData =>
    split
    · exact absurd ‹_› (paintRows_no_fault hc _ _ _ _ _ _)
    · split <;> nofun

/-- The byte fetched before PAYLEN lies in PAYLOAD (R31, R160). -/
theorem decodeByte_no_fault {s : State} (hs : s.Inv) (hp : s.phase = .decode .loop)
    (hpos : s.rd.pos.toNat < s.regs.paylen.toNat) (f : Fault) : decodeByte s ≠ .error f := by
  have hfits : s.rd.pos.toNat < Space.payload.size s.cfg :=
    hpos.trans_le (hs.streamFits (by rw [hp]; rfl))
  rw [decodeByte, State.blockRead_of_lt hfits]
  exact decodeStep_no_fault (s := s.advancePos) hs.cfgLegal _ f

theorem unlessFault_no_fault {p : Except Fault State} {f : Fault} (hp : p ≠ .error f) :
    unlessFault p ≠ .fault f := by
  cases p with
  | ok t => nofun
  | error g => rintro ⟨⟩; exact hp rfl

/-! ### One instruction, one step, one run -/

section
variable {stop : Byte} {bufsel kind : Bool} {s : State} (f : Fault)

theorem execNop_no_fault : execNop stop bufsel kind s ≠ .fault f := by
  unfold execNop
  split <;> nofun

theorem execReadUntil_no_fault : execReadUntil stop bufsel kind s ≠ .fault f := by
  unfold execReadUntil
  split
  · nofun
  · exact conclude_no_fault (tokenStep_no_fault _ _ _ _ f)
  · nofun

theorem execReadBlock_no_fault : execReadBlock stop bufsel kind s ≠ .fault f := by
  unfold execReadBlock
  split
  · nofun
  · exact conclude_no_fault (blockStep_no_fault _ _ f)
  · nofun

variable (hs : s.Inv)
include hs

theorem execReadFrame_no_fault : execReadFrame stop bufsel kind s ≠ .fault f := by
  unfold execReadFrame
  split
  · nofun
  · exact conclude_no_fault (frameStep_no_fault hs _ f)
  · nofun

theorem execSend_no_fault : execSend stop bufsel kind s ≠ .fault f := by
  unfold execSend
  split
  · nofun
  · rename_i hp
    exact conclude_no_fault (sendCommand_no_fault (hs.frameFits (by rw [hp]; rfl)) f)
  · nofun

theorem execTransactS_no_fault : execTransactS stop bufsel s ≠ .fault f := by
  unfold execTransactS
  split
  · nofun
  · exact conclude_no_fault (simpleStep_no_fault hs ‹_› f)
  · nofun

theorem execTransactG_no_fault : execTransactG stop bufsel s ≠ .fault f := by
  unfold execTransactG
  split
  · nofun
  · exact conclude_no_fault (graphicsStep_no_fault hs ‹_› f)
  · nofun

theorem execDecode_no_fault : execDecode stop bufsel kind s ≠ .fault f := by
  unfold execDecode
  split
  · nofun
  · nofun
  · split
    · exact unlessFault_no_fault (decodeByte_no_fault hs ‹_› ‹_› f)
    · nofun
  · nofun

end

theorem execEscBitimg_no_fault {s : State} (hc : s.cfg.Legal) (mode : Byte) (nx : BitVec 16)
    (data : List Byte) (f : Fault) : execEscBitimg mode nx data s ≠ .fault f := by
  unfold execEscBitimg
  split
  · exact absurd ‹_› (paintColumns_no_fault hc _ _ _ _ _)
  · nofun

/-- No instruction faults from a state of the invariant, in any phase. -/
theorem exec_no_fault {s : State} (hs : s.Inv) (i : Instr) (f : Fault) : exec i s ≠ .fault f := by
  cases i with
  | nop => exact execNop_no_fault f
  | readUntil => exact execReadUntil_no_fault f
  | readBlock => exact execReadBlock_no_fault f
  | readFrame => exact execReadFrame_no_fault f hs
  | send => exact execSend_no_fault f hs
  | transactS => exact execTransactS_no_fault f hs
  | transactG => exact execTransactG_no_fault f hs
  | decode => exact execDecode_no_fault f hs
  | escBitimg mode nx data => exact execEscBitimg_no_fault hs.cfgLegal mode nx data f
  | badOp7 | badOp8F | badReserved | escReset | escLsp | escFam | escPitch | escUnrec | txt => nofun

theorem blockTurn_no_fault {s : State} (hs : s.Inv) (f : Fault) : blockTurn s ≠ .fault f := by
  unfold blockTurn
  split
  · nofun
  · exact exec_no_fault hs _ f

theorem hostTurn_no_fault {s : State} (hs : s.Inv) (a : HostAccess) (f : Fault) :
    hostTurn a s ≠ .fault f := by
  unfold hostTurn
  split
  · exact exec_no_fault hs _ f
  · nofun
  · nofun

theorem step_no_fault {s : State} (hs : s.Inv) (f : Fault) : step s ≠ .fault f := by
  unfold step
  split
  · exact blockTurn_no_fault hs f
  · exact blockTurn_no_fault (hs.setTurns _) f
  · exact hostTurn_no_fault (hs.setTurns _) _ f
  · nofun

/-- Settles O45, by induction on the number of steps: no step from a state of the invariant faults, and
each leaves a state of the invariant (O44). -/
theorem noRunEverFaults : Obligations.NoRunEverFaults := by
  intro s hs k f
  induction k generalizing s with
  | zero => nofun
  | succ k ih =>
    cases h : step s with
    | next t =>
      have hrun : core.run (k + 1) s = core.run k t := by simp only [Host.Core.run, core, h]
      rw [hrun]
      exact ih t (everyStepKeepsTheInvariant s t hs h)
    | fault g => exact absurd h (step_no_fault hs g)
    | refused r =>
      have hrun : core.run (k + 1) s = .refused r := by simp only [Host.Core.run, core, h]
      rw [hrun]
      nofun

/-! ## The host's buffer accesses to an idle block (O39) -/

theorem Space.hostWritable_iff {sp : Space} :
    sp.hostWritable = true ↔ sp = .txbuf ∨ sp = .payload := by
  cases sp <;> simp [Space.hostWritable]

section
variable {s : State} {sp : Space} {i : Nat}

theorem State.hostMemRead_inside (hb : s.busy = false) (hi : i < sp.size s.cfg) :
    s.hostMemRead sp i = s.reply (.byte (s.byteAt sp i)) :=
  (if_neg (Bool.eq_false_iff.mp hb)).trans (if_pos hi)

theorem State.hostMemRead_outside (hb : s.busy = false) (hi : sp.size s.cfg ≤ i) :
    s.hostMemRead sp i = s.ignoreAccess.reply (.byte 0) :=
  (if_neg (Bool.eq_false_iff.mp hb)).trans (if_neg (Nat.not_lt.mpr hi))

theorem State.hostMemWrite_stored (hb : s.busy = false) (v : Byte) (hi : i < sp.size s.cfg)
    (hsp : sp.hostWritable = true) :
    s.hostMemWrite sp i v = s.setBuf sp (Memory.write (s.bufs.get sp) i v) :=
  (if_neg (Bool.eq_false_iff.mp hb)).trans (if_pos ⟨hi, hsp⟩)

theorem State.hostMemWrite_ignored (hb : s.busy = false) (v : Byte)
    (h : ¬ (i < sp.size s.cfg ∧ sp.hostWritable = true)) :
    s.hostMemWrite sp i v = s.ignoreAccess :=
  (if_neg (Bool.eq_false_iff.mp hb)).trans (if_neg h)

theorem State.byteAt_store_same (h : Memory.wf (s.bufs.get sp) = true) (v : Byte) :
    (s.setBuf sp (Memory.write (s.bufs.get sp) i v)).byteAt sp i = v := by
  simp [State.byteAt, Memory.read_write_same h]

theorem State.byteAt_store_other {sp' : Space} {j : Nat} (h : (sp', j) ≠ (sp, i)) (v : Byte) :
    (s.setBuf sp (Memory.write (s.bufs.get sp) i v)).byteAt sp' j = s.byteAt sp' j := by
  unfold State.byteAt
  rw [State.setBuf_bufs]
  by_cases hsp : sp' = sp
  · subst hsp
    have hj : j ≠ i := by rintro rfl; exact h rfl
    rw [Buffers.get_set_same, Memory.read_write_other _ hj]
  · rw [Buffers.get_set_other _ hsp]

end

/-- Settles O39, by the case of `hostMemRead` or `hostMemWrite` that each clause names. -/
theorem idleBufferAccesses : Obligations.IdleBufferAccesses := by
  intro s sp i ts hs hp
  have hidle : (s.setTurns ts).busy = false := State.busy_idle (s.setTurns ts) hp
  refine ⟨fun ht => ⟨fun hi => ?_, fun hi => ?_⟩, fun v ht => ⟨fun hsp hi => ?_, fun hno => ?_⟩⟩ <;>
    rw [step_of_hostAccess_done ht rfl]
  · rw [State.hostMemRead_inside hidle hi]
    rfl
  · rw [State.hostMemRead_outside hidle hi]
    rfl
  · rw [State.hostMemWrite_stored hidle v hi (Space.hostWritable_iff.mpr hsp)]
    exact ⟨_, rfl, State.byteAt_store_same (s := s.setTurns ts) (hs.bufsCanonical sp) v,
      fun sp' j hne => State.byteAt_store_other (s := s.setTurns ts) hne v, rfl⟩
  · have hrefused : ¬ (i < sp.size s.cfg ∧ sp.hostWritable = true) :=
      fun ⟨hi, hw⟩ => hno ⟨Space.hostWritable_iff.mp hw, hi⟩
    rw [State.hostMemWrite_ignored hidle v hrefused]
    rfl

/-! ## What a running operation and the host leave alone (O51, O52) -/

/-- What the frame reader never writes: the command frame's home, the picture and the latched fields
(R60, R90). -/
structure State.ReaderKeeps (s t : State) : Prop where
  txbuf : t.bufs.txbuf = s.bufs.txbuf
  bitmap : t.bufs.bitmap = s.bufs.bitmap
  txlen : t.regs.txlen = s.regs.txlen
  latch : t.latch = s.latch

/-- What a token or block read never writes: BLKLEN neither, which only `ParseDecimal`'s step sets
(R130). -/
structure State.ReadKeeps (s t : State) : Prop extends State.ReaderKeeps s t where
  blklen : t.regs.blklen = s.regs.blklen

/-- What the raster decoder never writes: its stream, the command frame's home and the latched fields
(R76, R90). -/
structure State.DecoderKeeps (s t : State) : Prop where
  txbuf : t.bufs.txbuf = s.bufs.txbuf
  payload : t.bufs.payload = s.bufs.payload
  txlen : t.regs.txlen = s.regs.txlen
  paylen : t.regs.paylen = s.regs.paylen
  latch : t.latch = s.latch

theorem State.ReadKeeps.trans {s t u : State} (h : s.ReadKeeps t) (h' : t.ReadKeeps u) :
    s.ReadKeeps u where
  txbuf := h'.txbuf.trans h.txbuf
  bitmap := h'.bitmap.trans h.bitmap
  txlen := h'.txlen.trans h.txlen
  latch := h'.latch.trans h.latch
  blklen := h'.blklen.trans h.blklen

theorem Leaves.readerKeeps {π : Type} {s : State} {p : Except Fault (Progress π)}
    (h : Leaves s.ReadKeeps p) : Leaves s.ReaderKeeps p :=
  h.mono fun _ ht => ht.toReaderKeeps

/-! ### The frame reader's procedures -/

theorem State.readKeeps_startToken (s : State) (ack : Bool) : s.ReadKeeps (s.startToken ack) := by
  cases ack <;> exact ⟨⟨rfl, rfl, rfl, rfl⟩, rfl⟩

theorem State.storeToken_readKeeps {s t : State} {ack : Bool} {b : Byte}
    (h : s.storeToken ack b = .ok t) : s.ReadKeeps t := by
  rcases State.storeToken_ok h with ⟨-, rfl⟩ | ⟨-, rfl⟩
  · cases ack <;> exact ⟨⟨rfl, rfl, rfl, rfl⟩, rfl⟩
  · exact ⟨⟨rfl, rfl, rfl, rfl⟩, rfl⟩

theorem State.storeBlock_readKeeps {s t : State} {b : Byte} (h : s.storeBlock b = .ok t) :
    s.ReadKeeps t := by
  rcases State.storeBlock_ok h with ⟨-, rfl⟩ | ⟨-, rfl⟩ <;> exact ⟨⟨rfl, rfl, rfl, rfl⟩, rfl⟩

theorem readByte_readKeeps (s : State) : (readByte s).All s.ReadKeeps := by
  rcases readByte_cases s with ⟨-, h⟩ | ⟨b, rs, -, h⟩ | ⟨rs, -, h⟩ | ⟨rs, -, -, h⟩ |
    ⟨rs, -, -, h⟩ <;> rw [h]
  · trivial
  all_goals exact ⟨⟨rfl, rfl, rfl, rfl⟩, rfl⟩

theorem tokenStep_readKeeps (p : TokenPhase) (stop : Byte) (ack : Bool) (s : State) :
    Leaves s.ReadKeeps (tokenStep p stop ack s) := by
  have loop : ∀ s : State, Leaves s.ReadKeeps (tokenStep .loop stop ack s) := by
    intro s g h
    have hread := readByte_readKeeps s
    rcases tokenStep_loop_ok h with ⟨-, rfl⟩ | ⟨u, hu, rfl⟩ | ⟨u, hu, rfl⟩ | ⟨u, hu, rfl⟩ |
      ⟨b, u, v, hu, -, hv, rfl⟩
    · trivial
    all_goals rw [hu] at hread
    · exact hread
    · exact hread
    · split
      · exact hread.trans ⟨⟨rfl, rfl, rfl, rfl⟩, rfl⟩
      · exact hread
    · exact hread.trans (State.storeToken_readKeeps hv)
  cases p with
  | loop => exact loop s
  | start => exact (loop _).mono fun _ => (s.readKeeps_startToken ack).trans

theorem blockStep_readKeeps (p : BlockPhase) (s : State) :
    Leaves s.ReadKeeps (blockStep p s) := by
  have loop : ∀ s : State, Leaves s.ReadKeeps (blockStep .loop s) := by
    intro s g h
    have hread := readByte_readKeeps s
    rcases blockStep_loop_ok h with ⟨-, rfl⟩ | ⟨u, hu, rfl⟩ | ⟨u, hu, rfl⟩ | ⟨c, u, hu, -, rfl⟩ |
      ⟨b, u, v, hu, -, hv, rfl⟩
    · trivial
    all_goals rw [hu] at hread
    · exact hread
    · exact hread
    · exact hread.trans ⟨⟨rfl, rfl, rfl, rfl⟩, rfl⟩
    · exact hread.trans (State.storeBlock_readKeeps hv)
  cases p with
  | loop => exact loop s
  | start =>
    have hstart : s.ReadKeeps s.startBlock := ⟨⟨rfl, rfl, rfl, rfl⟩, rfl⟩
    exact (loop _).mono fun _ => hstart.trans

theorem sendCommand_readerKeeps (s : State) : Leaves s.ReaderKeeps (sendCommand s) := by
  intro g h
  obtain ⟨frame, -, ⟨-, rfl⟩ | ⟨ws, -, rfl⟩ | ⟨a, ws, -, -, rfl⟩⟩ := sendCommand_ok h
  · trivial
  all_goals exact ⟨rfl, rfl, rfl, rfl⟩

theorem frameStep_readerKeeps (p : FramePhase) (s : State) :
    Leaves s.ReaderKeeps (frameStep p s) := by
  cases p with
  | token t => exact (tokenStep_readKeeps t comma false s).readerKeeps.within fun _ hu => leaves_ok hu
  | block b => exact (blockStep_readKeeps b s).readerKeeps.within fun _ hu => leaves_ok hu
  | parse =>
    intro g h
    simp only [frameStep] at h
    split at h <;> cases h <;> exact ⟨rfl, rfl, rfl, rfl⟩

theorem ackStep_readerKeeps {π : Type} (t : TokenPhase) (into : TokenPhase → π) (onSuccess : π)
    (s : State) : Leaves s.ReaderKeeps (ackStep t into onSuccess s) := by
  refine (tokenStep_readKeeps t carriageReturn true s).readerKeeps.within fun u hu g hg => ?_
  split at hg
  · cases hg
  · rename_i v hv
    obtain rfl := State.recordAck_ok hv
    cases hg
    split <;> exact { hu with }

theorem simpleStep_readerKeeps (p : SimplePhase) (s : State) :
    Leaves s.ReaderKeeps (simpleStep p s) := by
  cases p with
  | send => exact (sendCommand_readerKeeps s).within fun _ hu => leaves_ok hu
  | ack t => exact ackStep_readerKeeps t _ _ s
  | second t =>
    exact (tokenStep_readKeeps t carriageReturn false s).readerKeeps.within fun _ hu => leaves_ok hu

theorem graphicsStep_readerKeeps (p : GraphicsPhase) (s : State) :
    Leaves s.ReaderKeeps (graphicsStep p s) := by
  cases p with
  | send => exact (sendCommand_readerKeeps s).within fun _ hu => leaves_ok hu
  | ack t => exact ackStep_readerKeeps t _ _ s
  | frame f => exact (frameStep_readerKeeps f s).within fun _ hu => leaves_ok hu

/-! ### The raster decoder -/

theorem decodeStep_decoderKeeps {b : Byte} {s t : State} (h : decodeStep b s = .ok t) :
    s.DecoderKeeps t := by
  cases hp : s.rd.pstate <;> simp only [decodeStep, hp] at h
  case text | esc | biNh => split at h <;> cases h <;> exact ⟨rfl, rfl, rfl, rfl, rfl⟩
  case biMode | biNl | operand => cases h; exact ⟨rfl, rfl, rfl, rfl, rfl⟩
  case biData =>
    split at h
    · cases h
    · split at h <;> cases h <;> exact ⟨rfl, rfl, rfl, rfl, rfl⟩

theorem decodeByte_decoderKeeps {s t : State} (h : decodeByte s = .ok t) : s.DecoderKeeps t :=
  { decodeStep_decoderKeeps (decodeByte_ok h) with }

theorem State.decoderKeeps_endDecode (s : State) : s.DecoderKeeps s.endDecode := by
  unfold State.endDecode
  split <;> exact ⟨rfl, rfl, rfl, rfl, rfl⟩

/-- A command of the stream paints and counts, and nothing else (R179, R180). -/
theorem exec_stream_decoderKeeps {i : Instr} (hi : i.isCommand = false) {s t : State}
    (h : exec i s = .next t) : s.DecoderKeeps t := by
  cases i with
  | escBitimg mode nx data =>
    obtain ⟨m, -, rfl⟩ := execEscBitimg_ok (mode := mode) h
    exact ⟨rfl, rfl, rfl, rfl, rfl⟩
  | escReset | escLsp | escFam | escPitch | escUnrec | txt => cases h; exact ⟨rfl, rfl, rfl, rfl, rfl⟩
  | nop | readUntil | readBlock | readFrame | send | transactS | transactG | decode | badOp7
  | badOp8F | badReserved => cases hi

/-! ### One instruction -/

/-- What a step of a host command keeps, by the phase it is taken in: the inputs of the running
operation, and, outside a decode, the picture. -/
structure State.KeepsInputs (s t : State) : Prop where
  txbuf : t.bufs.txbuf = s.bufs.txbuf
  txlen : t.regs.txlen = s.regs.txlen
  latch : s.phase ≠ .idle → t.latch = s.latch
  blklen : ∀ p, s.phase = .readBlock p → t.regs.blklen = s.regs.blklen
  stream : s.phase.decodes = true →
    t.bufs.payload = s.bufs.payload ∧ t.regs.paylen = s.regs.paylen
  bitmap : s.phase.decodes = false → t.bufs.bitmap = s.bufs.bitmap

theorem State.KeepsInputs.refl (s : State) : s.KeepsInputs s :=
  ⟨rfl, rfl, fun _ => rfl, fun _ _ => rfl, fun _ => ⟨rfl, rfl⟩, fun _ => rfl⟩

theorem State.keepsInputs_ignoreAccess (s : State) : s.KeepsInputs s.ignoreAccess :=
  { State.KeepsInputs.refl s with }

/-- Acceptance and rejection of a command by an idle block (R88, R213). -/
theorem State.keepsInputs_of_idle {s t : State} (hp : s.phase = .idle) (hbufs : t.bufs = s.bufs)
    (htxlen : t.regs.txlen = s.regs.txlen) : s.KeepsInputs t where
  txbuf := by rw [hbufs]
  txlen := htxlen
  latch hb := absurd hp hb
  blklen p hb := by rw [hp] at hb; cases hb
  stream hd := by rw [hp] at hd; cases hd
  bitmap _ := by rw [hbufs]

theorem State.ReaderKeeps.keepsInputs {s t : State} (h : s.ReaderKeeps t)
    (hd : s.phase.decodes = false)
    (hblklen : ∀ p, s.phase = .readBlock p → t.regs.blklen = s.regs.blklen) : s.KeepsInputs t where
  txbuf := h.txbuf
  txlen := h.txlen
  latch _ := h.latch
  blklen := hblklen
  stream hs := by rw [hd] at hs; cases hs
  bitmap _ := h.bitmap

theorem State.DecoderKeeps.keepsInputs {s t : State} (h : s.DecoderKeeps t) {p : DecodePhase}
    (hp : s.phase = .decode p) : s.KeepsInputs t where
  txbuf := h.txbuf
  txlen := h.txlen
  latch _ := h.latch
  blklen q hq := by rw [hp] at hq; cases hq
  stream _ := ⟨h.payload, h.paylen⟩
  bitmap hd := by rw [hp] at hd; cases hd

theorem conclude_readerKeeps {π : Type} {s t : State} {into : π → Phase}
    {p : Except Fault (Progress π)} (hp : Leaves s.ReaderKeeps p) (h : conclude s into p = .next t) :
    s.ReaderKeeps t :=
  hp.of_conclude h ⟨rfl, rfl, rfl, rfl⟩ (fun _ _ hu => { hu with }) (fun _ hu => { hu with })

theorem conclude_readKeeps {π : Type} {s t : State} {into : π → Phase}
    {p : Except Fault (Progress π)} (hp : Leaves s.ReadKeeps p) (h : conclude s into p = .next t) :
    s.ReadKeeps t :=
  hp.of_conclude h ⟨⟨rfl, rfl, rfl, rfl⟩, rfl⟩ (fun _ _ hu => { hu with }) (fun _ hu => { hu with })

/-- A step of the frame reader in any operation but READ_BLOCK. -/
theorem conclude_keepsInputs {π : Type} {s t : State} {into : π → Phase}
    {p : Except Fault (Progress π)} (hp : Leaves s.ReaderKeeps p) (hd : s.phase.decodes = false)
    (hb : ∀ q, s.phase ≠ .readBlock q) (h : conclude s into p = .next t) : s.KeepsInputs t :=
  (conclude_readerKeeps hp h).keepsInputs hd fun q hq => absurd hq (hb q)

theorem keepsInputs_of_next {s t u : State}
    (h : (.next u : Host.Outcome State Fault Refusal) = .next t) (hu : s.KeepsInputs u) :
    s.KeepsInputs t := by
  cases h
  exact hu

theorem State.keepsInputs_badWord (s : State) : s.KeepsInputs s.badWord := by
  unfold State.badWord
  split <;> exact { State.KeepsInputs.refl s with }

section
variable {stop : Byte} {bufsel kind : Bool} {s t : State}

theorem execNop_keepsInputs (h : execNop stop bufsel kind s = .next t) : s.KeepsInputs t := by
  unfold execNop at h
  split at h
  · exact keepsInputs_of_next h (State.keepsInputs_of_idle ‹_› rfl rfl)
  · exact keepsInputs_of_next h { State.KeepsInputs.refl s with }
  · exact keepsInputs_of_next h s.keepsInputs_ignoreAccess

theorem execReadUntil_keepsInputs (h : execReadUntil stop bufsel kind s = .next t) :
    s.KeepsInputs t := by
  unfold execReadUntil at h
  split at h
  · exact keepsInputs_of_next h (State.keepsInputs_of_idle ‹_› rfl rfl)
  · rename_i p hp
    exact conclude_keepsInputs (tokenStep_readKeeps p _ _ s).readerKeeps (by rw [hp]; rfl)
      (by rw [hp]; nofun) h
  · exact keepsInputs_of_next h s.keepsInputs_ignoreAccess

theorem execReadBlock_keepsInputs (h : execReadBlock stop bufsel kind s = .next t) :
    s.KeepsInputs t := by
  unfold execReadBlock at h
  split at h
  · exact keepsInputs_of_next h (State.keepsInputs_of_idle ‹_› rfl rfl)
  · rename_i p hp
    have hkeeps := conclude_readKeeps (blockStep_readKeeps p s) h
    exact hkeeps.keepsInputs (by rw [hp]; rfl) fun _ _ => hkeeps.blklen
  · exact keepsInputs_of_next h s.keepsInputs_ignoreAccess

theorem execReadFrame_keepsInputs (h : execReadFrame stop bufsel kind s = .next t) :
    s.KeepsInputs t := by
  unfold execReadFrame at h
  split at h
  · exact keepsInputs_of_next h (State.keepsInputs_of_idle ‹_› rfl rfl)
  · rename_i p hp
    exact conclude_keepsInputs (frameStep_readerKeeps p s) (by rw [hp]; rfl) (by rw [hp]; nofun) h
  · exact keepsInputs_of_next h s.keepsInputs_ignoreAccess

theorem execSend_keepsInputs (h : execSend stop bufsel kind s = .next t) : s.KeepsInputs t := by
  unfold execSend at h
  split at h
  · exact keepsInputs_of_next h (by split <;> exact State.keepsInputs_of_idle ‹_› rfl rfl)
  · rename_i hp
    exact conclude_keepsInputs (sendCommand_readerKeeps s) (by rw [hp]; rfl) (by rw [hp]; nofun) h
  · exact keepsInputs_of_next h s.keepsInputs_ignoreAccess

theorem execTransactS_keepsInputs (h : execTransactS stop bufsel s = .next t) :
    s.KeepsInputs t := by
  unfold execTransactS at h
  split at h
  · exact keepsInputs_of_next h (by split <;> exact State.keepsInputs_of_idle ‹_› rfl rfl)
  · rename_i p hp
    exact conclude_keepsInputs (simpleStep_readerKeeps p s) (by rw [hp]; rfl) (by rw [hp]; nofun) h
  · exact keepsInputs_of_next h s.keepsInputs_ignoreAccess

theorem execTransactG_keepsInputs (h : execTransactG stop bufsel s = .next t) :
    s.KeepsInputs t := by
  unfold execTransactG at h
  split at h
  · exact keepsInputs_of_next h (by split <;> exact State.keepsInputs_of_idle ‹_› rfl rfl)
  · rename_i p hp
    exact conclude_keepsInputs (graphicsStep_readerKeeps p s) (by rw [hp]; rfl) (by rw [hp]; nofun) h
  · exact keepsInputs_of_next h s.keepsInputs_ignoreAccess

theorem execDecode_keepsInputs (h : execDecode stop bufsel kind s = .next t) :
    s.KeepsInputs t := by
  unfold execDecode at h
  split at h
  · exact keepsInputs_of_next h (by split <;> exact State.keepsInputs_of_idle ‹_› rfl rfl)
  · rename_i hp
    have hclear : s.DecoderKeeps (s.startDecode.enter (.decode .loop)) := ⟨rfl, rfl, rfl, rfl, rfl⟩
    exact keepsInputs_of_next h (hclear.keepsInputs hp)
  · rename_i hp
    split at h
    · cases hd : decodeByte s with
      | error f => rw [hd] at h; cases h
      | ok u => rw [hd] at h; exact keepsInputs_of_next h ((decodeByte_decoderKeeps hd).keepsInputs hp)
    · have hend : s.DecoderKeeps s.endDecode.finish := { s.decoderKeeps_endDecode with }
      exact keepsInputs_of_next h (hend.keepsInputs hp)
  · exact keepsInputs_of_next h s.keepsInputs_ignoreAccess

/-- A step of any host command, in any phase. -/
theorem exec_command_keepsInputs {i : Instr} (hi : i.isCommand = true) (h : exec i s = .next t) :
    s.KeepsInputs t := by
  cases i with
  | nop => exact execNop_keepsInputs h
  | readUntil => exact execReadUntil_keepsInputs h
  | readBlock => exact execReadBlock_keepsInputs h
  | readFrame => exact execReadFrame_keepsInputs h
  | send => exact execSend_keepsInputs h
  | transactS => exact execTransactS_keepsInputs h
  | transactG => exact execTransactG_keepsInputs h
  | decode => exact execDecode_keepsInputs h
  | badOp7 | badOp8F | badReserved => exact keepsInputs_of_next h s.keepsInputs_badWord
  | escReset | escBitimg | escLsp | escFam | escPitch | escUnrec | txt => cases hi

end

/-! ### One step of the machine -/

theorem blockTurn_keepsInputs {s t : State} (h : blockTurn s = .next t) : s.KeepsInputs t := by
  rcases blockTurn_next h with ⟨-, rfl⟩ | ⟨i, hi, he⟩ | ⟨i, hp, hn, he⟩
  · exact .refl t
  · exact exec_command_keepsInputs hi he
  · obtain ⟨-, rest, hd⟩ := State.nextCommand_some hn
    exact (exec_stream_decoderKeeps (decodeStream_ok hd).1 he).keepsInputs hp

/-- The host changes nothing of a busy block but HOST_ERR (R22, R61). -/
theorem hostAccess_busy {a : HostAccess} {s t : State} (h : hostAccess a s = .done t)
    (hb : s.busy = true) : t.bufs = s.bufs ∧ t.regs = s.regs ∧ t.latch = s.latch := by
  rcases hostAccess_done h with ⟨off, rfl⟩ | ⟨off, v, rfl⟩ | ⟨sp, i, rfl⟩ | ⟨sp, i, v, rfl⟩
  · rw [State.hostRegRead_busy hb]; exact ⟨rfl, rfl, rfl⟩
  · rw [State.hostRegWrite_busy hb]; exact ⟨rfl, rfl, rfl⟩
  · rw [State.hostMemRead_busy hb]; exact ⟨rfl, rfl, rfl⟩
  · rw [State.hostMemWrite_busy hb]; exact ⟨rfl, rfl, rfl⟩

/-- BITMAP is read-only to the host (R60, R61). -/
theorem hostAccess_bitmap {a : HostAccess} {s t : State} (h : hostAccess a s = .done t) :
    t.bufs.bitmap = s.bufs.bitmap := by
  rcases hostAccess_done h with ⟨off, rfl⟩ | ⟨off, v, rfl⟩ | ⟨sp, i, rfl⟩ | ⟨sp, i, v, rfl⟩
  · unfold State.hostRegRead
    split <;> rfl
  · unfold State.hostRegWrite
    split
    · rfl
    · split <;> rfl
  · unfold State.hostMemRead
    split
    · rfl
    · split <;> rfl
  · unfold State.hostMemWrite
    split
    · rfl
    · split
      · rename_i hi
        rcases Space.hostWritable_iff.mp hi.2 with rfl | rfl <;> rfl
      · rfl

/-- Everything a step but a reset can be, once the schedule's turn is used up: one that keeps the inputs,
or a host access. -/
theorem step_keepsInputs {s t : State} (hreset : s.env.turns.head? ≠ some .reset)
    (h : step s = .next t) : ∃ ts,
    (s.setTurns ts).KeepsInputs t ∨ ∃ a, hostAccess a (s.setTurns ts) = .done t := by
  obtain ⟨ts, hb | ⟨w, he⟩ | hhost | ⟨hr, -⟩⟩ := step_agent h
  · exact ⟨ts, .inl (blockTurn_keepsInputs hb)⟩
  · exact ⟨ts, .inl (exec_command_keepsInputs (decodeWord_isCommand w) he)⟩
  · exact ⟨ts, .inr hhost⟩
  · exact absurd (by rw [hr]; rfl) hreset

/-- Settles O51: the block keeps the inputs of what it runs, and the host cannot reach a busy block's. -/
theorem runningOperationsKeepTheirInputs : Obligations.RunningOperationsKeepTheirInputs := by
  intro s t hb hreset h
  obtain ⟨ts, hkeeps | ⟨a, ha⟩⟩ := step_keepsInputs hreset h
  · exact ⟨hkeeps.txbuf, hkeeps.txlen, hkeeps.latch hb, hkeeps.blklen, hkeeps.stream⟩
  · obtain ⟨hbufs, hregs, hlatch⟩ := hostAccess_busy ha ((s.setTurns ts).busy_iff.mpr hb)
    rw [hbufs, hregs]
    exact ⟨rfl, rfl, hlatch, fun _ _ => rfl, fun _ => ⟨rfl, rfl⟩⟩

/-- Settles O52: outside a decode the block does not paint, and the host may not write BITMAP. -/
theorem onlyDecodeWritesTheBitmap : Obligations.OnlyDecodeWritesTheBitmap := by
  intro s t hd hreset h
  obtain ⟨ts, hkeeps | ⟨a, ha⟩⟩ := step_keepsInputs hreset h
  · exact hkeeps.bitmap hd
  · exact hostAccess_bitmap (s := s.setTurns ts) ha

/-! ## The stream command the block runs (O7) -/

/-- A column count is put together from its two bytes again (R65, R99). -/
theorem columnCount_of_bytes (nx : BitVec 16) :
    columnCount (nx.extractLsb' 0 8) (nx.extractLsb' 8 8) = nx := by
  apply BitVec.eq_of_toNat_eq
  simp only [columnCount, BitVec.toNat_add, BitVec.toNat_mul, BitVec.toNat_setWidth,
    BitVec.extractLsb'_toNat, BitVec.reduceToNat, Nat.shiftRight_eq_div_pow]
  omega

/-- The two free selectors of a legal configuration are of their own class (R9, R98). -/
theorem selectorClass_fontSel {c : Config} (hc : c.Legal) :
    selectorClass c c.fontSel = .fontFamily := by
  obtain ⟨-, -, -, -, -, -, -, h40, h2A, h41, -⟩ := hc
  rw [selectorClass, if_neg h40, if_neg h2A, if_neg h41, if_pos rfl]

theorem selectorClass_pitchSel {c : Config} (hc : c.Legal) :
    selectorClass c c.pitchSel = .pitch := by
  obtain ⟨-, -, -, -, -, -, hne, -, -, -, h40, h2A, h41⟩ := hc
  rw [selectorClass, if_neg h40, if_neg h2A, if_neg h41, if_neg hne.symm, if_pos rfl]

/-- A byte other than the escape is an item of its own (R96, R163). -/
theorem decodeStream_txt {c : Config} {b : Byte} (h : b ≠ escByte) (rest : List Byte) :
    decodeStream c (b :: rest) = .ok (.txt b, rest) := by
  cases rest <;> simp [decodeStream, h]

/-- A stream command is read back from its own bytes, whatever follows them (R96, R100). -/
theorem decodeStream_encode {c : Config} (hc : c.Legal) {i : Instr} (hi : i.isCommand = false)
    (hwf : i.wf c = true) (tail : List Byte) :
    decodeStream c ((encode c i).stream ++ tail) = .ok (i, tail) := by
  cases i with
  | escBitimg mode nx data =>
    have hlen : data.length = nx.toNat := by simpa [Instr.wf] using hwf
    have hcount := columnCount_of_bytes nx
    refine (decodeStream_bitImage c mode _ _ (ds := data ++ tail) ?_).trans ?_ <;>
      simp [hcount, ← hlen]
  | escUnrec sel => exact decodeStream_unrec (by simpa [Instr.wf] using hwf) tail
  | txt b => exact decodeStream_txt (by simpa [Instr.wf] using hwf) tail
  | escFam n => simp [encode, Code.stream, decodeStream, selectorClass_fontSel hc]
  | escPitch => simp [encode, Code.stream, decodeStream, selectorClass_pitchSel hc]
  | escReset | escLsp => simp [encode, Code.stream, decodeStream, selectorClass]
  | nop | readUntil | readBlock | readFrame | send | transactS | transactG | decode | badOp7
  | badOp8F | badReserved => cases hi

/-- Bytes that stand at POS are the front of the stream the decoder sees, when PAYLEN is within
PAYLOAD (R76, R96). -/
theorem State.StreamAt.streamBytes {s : State} {bs : List Byte} (h : s.StreamAt bs)
    (hcap : s.regs.paylen.toNat ≤ s.cfg.payloadCap) :
    ∃ tail, s.streamBytes = bs ++ tail := by
  obtain ⟨hfits, hbytes⟩ := h
  have hfront : (List.range' s.rd.pos.toNat bs.length).map (Memory.read s.bufs.payload) = bs := by
    refine List.ext_getElem (by simp) fun j _ hj => ?_
    have hj' := hbytes j hj
    rw [List.getD_eq_getElem _ _ hj] at hj'
    simpa [State.byteAt, Buffers.get] using hj'
  obtain ⟨rest, hrest⟩ : ∃ rest, s.regs.paylen.toNat - s.rd.pos.toNat = bs.length + rest :=
    ⟨s.regs.paylen.toNat - s.rd.pos.toNat - bs.length, by omega⟩
  refine ⟨(List.range' (s.rd.pos.toNat + bs.length) rest).map (Memory.read s.bufs.payload), ?_⟩
  rw [State.streamBytes, Nat.min_eq_left hcap, hrest, ← List.range'_append_1, List.map_append, hfront]

/-- A whole well-formed command between two others is the next command (R96, R160). -/
theorem State.nextCommand_of_streamAt {s : State} {i : Instr} (hs : s.Inv)
    (hp : s.phase = .decode .loop) (htext : s.rd.pstate = .text) (hi : i.isCommand = false)
    (hwf : i.wf s.cfg = true) (hat : s.StreamAt (encode s.cfg i).stream) :
    s.nextCommand = some i := by
  obtain ⟨tail, htail⟩ := hat.streamBytes (hs.streamFits (by rw [hp]; rfl))
  simp only [State.nextCommand, htext, if_true, htail, decodeStream_encode hs.cfgLegal hi hwf tail]

/-- Settles O7: the block runs the next command, and that is the one at POS. -/
theorem stepRunsTheStreamCommand : Obligations.StepRunsTheStreamCommand := by
  intro s i ts hs hb hp htext hi hwf hat
  have hn := State.nextCommand_of_streamAt hs hp htext hi hwf hat
  exact step_of_nextInstr hb (by simp only [State.nextInstr, hp, hn])

end Sys2Proof.Machine

/-! PROOFS. The statements of spec/30_encoding.md: the decoder and the encoder of both instruction formats,
which command words are accepted and what acceptance does, and the whole runs of READ_BLOCK, of the two
transactions, and of DECODE over a listing. -/

namespace Sys2Proof.Machine

/-! ## The host command word -/

/-- A word of format HC has the fields it is made of (R85). -/
theorem commandWord_fields (hi : BitVec 14) (kind bufsel : Bool) (stop : Byte) (lo op : BitVec 4) :
    (commandWord hi kind bufsel stop lo op).extractLsb' 0 4 = op ∧
    (commandWord hi kind bufsel stop lo op).extractLsb' 4 4 = lo ∧
    (commandWord hi kind bufsel stop lo op).extractLsb' 8 8 = stop ∧
    (commandWord hi kind bufsel stop lo op).getLsbD 16 = bufsel ∧
    (commandWord hi kind bufsel stop lo op).getLsbD 17 = kind ∧
    (commandWord hi kind bufsel stop lo op).extractLsb' 18 14 = hi := by
  unfold commandWord
  refine ⟨BitVec.extractLsb'_append_eq_right, ?_, ?_, ?_, ?_, ?_⟩
  · rw [BitVec.extractLsb'_append_eq_of_le (by decide)]
    exact BitVec.extractLsb'_append_eq_right
  · iterate 2 rw [BitVec.extractLsb'_append_eq_of_le (by decide)]
    exact BitVec.extractLsb'_append_eq_right
  · simp only [BitVec.getLsbD_append]
    simp
  · simp only [BitVec.getLsbD_append]
    simp
  · iterate 5 rw [BitVec.extractLsb'_append_eq_of_le (by decide)]
    exact BitVec.extractLsb'_eq_self

/-- Two adjacent fields of a word, side by side, are one field of it. -/
theorem append_fields (w : Word) {lo n m k : Nat} (hk : k = lo + n) :
    w.extractLsb' k m ++ w.extractLsb' lo n = w.extractLsb' lo (m + n) := 
  BitVec.extractLsb'_append_extractLsb'_eq_extractLsb' hk

theorem ofBool_getLsbD (w : Word) (i : Nat) : BitVec.ofBool (w.getLsbD i) = w.extractLsb' i 1 := by
  apply BitVec.eq_of_getLsbD_eq
  intro j hj
  obtain rfl : j = 0 := by omega
  simp

/-- A word is put together from its fields (R85). -/
theorem commandWord_of_fields (w : Word) :
    commandWord (w.extractLsb' 18 14) (w.getLsbD 17) (w.getLsbD 16) (w.extractLsb' 8 8)
      (w.extractLsb' 4 4) (w.extractLsb' 0 4) = w := by
  unfold commandWord
  rw [ofBool_getLsbD, ofBool_getLsbD, append_fields w (show 18 = 17 + 1 from rfl),
    append_fields w (show 17 = 16 + 1 from rfl), append_fields w (show 16 = 8 + 8 from rfl),
    append_fields w (show 8 = 4 + 4 from rfl), append_fields w (show 4 = 0 + 4 from rfl)]
  exact BitVec.extractLsb'_eq_self

/-- OP is 0x8 or more when its top bit is set. -/
theorem getLsbD_three (w : Word) : w.getLsbD 3 = decide (8 ≤ (w.extractLsb' 0 4).toNat) := by
  have hmsb : w.getLsbD 3 = (w.extractLsb' 0 4).msb := by simp [BitVec.msb_eq_getLsbD_last]
  rw [hmsb, BitVec.msb_eq_decide]

/-- The bits of a word with the reserved OP 0x7 (R87 (b)). -/
theorem op7_fields (rest : BitVec 28) :
    (rest ++ (7 : BitVec 4) : Word).extractLsb' 0 4 = 7 ∧
    (rest ++ (7 : BitVec 4) : Word).extractLsb' 4 28 = rest :=
  ⟨BitVec.extractLsb'_append_eq_right, BitVec.extractLsb'_append_eq_left⟩

/-- The bits of a word with a reserved OP from 0x8 on (R87 (b)). -/
theorem op8F_fields (low : BitVec 3) (rest : BitVec 28) :
    (rest ++ (1 : BitVec 1) ++ low : Word).extractLsb' 0 3 = low ∧
    (rest ++ (1 : BitVec 1) ++ low : Word).getLsbD 3 = true ∧
    (rest ++ (1 : BitVec 1) ++ low : Word).extractLsb' 4 28 = rest := by
  refine ⟨BitVec.extractLsb'_append_eq_right, ?_, ?_⟩
  · simp only [BitVec.getLsbD_append]
    simp
  · iterate 2 rw [BitVec.extractLsb'_append_eq_of_le (by decide)]
    exact BitVec.extractLsb'_eq_self

/-- The bits of a word with a reserved bit set (R87 (a)). -/
theorem reserved_fields (op lo : BitVec 4) (mid : BitVec 10) (hi : BitVec 14) :
    (hi ++ mid ++ lo ++ op : Word).extractLsb' 0 4 = op ∧
    (hi ++ mid ++ lo ++ op : Word).extractLsb' 4 4 = lo ∧
    (hi ++ mid ++ lo ++ op : Word).extractLsb' 8 10 = mid ∧
    (hi ++ mid ++ lo ++ op : Word).extractLsb' 18 14 = hi := by
  refine ⟨BitVec.extractLsb'_append_eq_right, ?_, ?_, ?_⟩
  · rw [BitVec.extractLsb'_append_eq_of_le (by decide)]
    exact BitVec.extractLsb'_append_eq_right
  · iterate 2 rw [BitVec.extractLsb'_append_eq_of_le (by decide)]
    exact BitVec.extractLsb'_append_eq_right
  · iterate 3 rw [BitVec.extractLsb'_append_eq_of_le (by decide)]
    exact BitVec.extractLsb'_eq_self

theorem decodeWord_op7 (rest : BitVec 28) : decodeWord (rest ++ (7 : BitVec 4)) = .badOp7 rest := by
  obtain ⟨hop, hrest⟩ := op7_fields rest
  simp only [decodeWord, getLsbD_three, hop, hrest]
  rfl

theorem decodeWord_op8F (low : BitVec 3) (rest : BitVec 28) :
    decodeWord (rest ++ (1 : BitVec 1) ++ low) = .badOp8F low rest := by
  obtain ⟨hlow, hbit, hrest⟩ := op8F_fields low rest
  simp only [decodeWord, hbit, hlow, hrest, if_true]

theorem decodeWord_reserved {op lo : BitVec 4} (mid : BitVec 10) {hi : BitVec 14} (hop : op.toNat < 7)
    (hres : lo ≠ 0 ∨ hi ≠ 0) : decodeWord (hi ++ mid ++ lo ++ op) = .badReserved op lo mid hi := by
  obtain ⟨hop', hlo, hmid, hhi⟩ := reserved_fields op lo mid hi
  have h7 : op ≠ 7 := by rintro rfl; exact absurd hop (by decide)
  have h8 : ¬ 8 ≤ op.toNat := by omega
  simp only [decodeWord, getLsbD_three, hop', hlo, hmid, hhi, h7, h8, decide_false, if_false,
    if_pos hres, Bool.false_eq_true]

/-- A well-formed command is a word, and the one it is read back from (R85, R86). -/
theorem encode_command {c : Config} {i : Instr} (hi : i.isCommand = true) (hwf : i.wf c = true) :
    ∃ w, encode c i = .word w ∧ decodeWord w = i := by
  cases i with
  | badOp7 rest => exact ⟨_, rfl, decodeWord_op7 rest⟩
  | badOp8F low rest => exact ⟨_, rfl, decodeWord_op8F low rest⟩
  | badReserved op lo mid high =>
    obtain ⟨hop, hres⟩ : op.toNat < 7 ∧ (lo ≠ 0 ∨ high ≠ 0) := by simpa [Instr.wf] using hwf
    exact ⟨_, rfl, decodeWord_reserved mid hop hres⟩
  | nop | readUntil | readBlock | readFrame | send | transactS | transactG | decode =>
    exact ⟨_, rfl, by simp only [decodeWord, getLsbD_three, commandWord_fields]; rfl⟩
  | escReset | escBitimg | escLsp | escFam | escPitch | escUnrec | txt => cases hi

/-! ## The stream command -/

theorem encode_stream {c : Config} {i : Instr} (hi : i.isCommand = false) :
    encode c i = .bytes (encode c i).stream := by
  cases i with
  | escReset | escBitimg | escLsp | escFam | escPitch | escUnrec | txt => rfl
  | nop | readUntil | readBlock | readFrame | send | transactS | transactG | decode | badOp7
  | badOp8F | badReserved => cases hi

/-- A well-formed stream command has as many bytes as its format gives it (R100). -/
theorem encode_stream_length {c : Config} {i : Instr} (hi : i.isCommand = false) (hwf : i.wf c = true) :
    (encode c i).stream.length = i.length := by
  cases i with
  | escBitimg mode nx data => exact Sys2Proof.Laws.CodeLength.escBitimg mode nx data c hwf
  | escReset | escLsp | escFam | escPitch | escUnrec | txt => rfl
  | nop | readUntil | readBlock | readFrame | send | transactS | transactG | decode | badOp7
  | badOp8F | badReserved => cases hi

/-- Settles O1: a command by its fields, a stream command with no byte after it. -/
theorem encodedInstructionDecodes : Obligations.EncodedInstructionDecodes := by
  intro c i hc hwf
  cases hi : i.isCommand with
  | true =>
    obtain ⟨w, hw, hd⟩ := encode_command hi hwf
    rw [hw, decodeCode, hd]
  | false =>
    have hd := decodeStream_encode hc hi hwf []
    rw [List.append_nil] at hd
    rw [encode_stream hi, decodeCode, hd]

/-- Settles O2. -/
theorem streamItemDecodesBeforeAnyTail : Obligations.StreamItemDecodesBeforeAnyTail :=
  fun _ _ tail hc hwf hi => ⟨decodeStream_encode hc hi hwf tail, encode_stream_length hi hwf⟩

/-! ## Every word is a command (O3) -/

theorem opcode_cases : ∀ op : BitVec 4, op.toNat < 7 →
    op = 0 ∨ op = 1 ∨ op = 2 ∨ op = 3 ∨ op = 4 ∨ op = 5 ∨ op = 6 := by
  decide

/-- A word with no reserved bit set and an OP of R86 is the code of the operation OP names. -/
theorem exists_operation (c : Config) (kind bufsel : Bool) (stop : Byte) {op : BitVec 4}
    (hop : op.toNat < 7) : ∃ i : Instr, i.isCommand = true ∧ i.wf c = true ∧
      encode c i = .word (commandWord 0 kind bufsel stop 0 op) := by
  rcases opcode_cases op hop with rfl | rfl | rfl | rfl | rfl | rfl | rfl
  · exact ⟨.nop stop bufsel kind, rfl, rfl, rfl⟩
  · exact ⟨.readUntil stop bufsel kind, rfl, rfl, rfl⟩
  · exact ⟨.readBlock stop bufsel kind, rfl, rfl, rfl⟩
  · exact ⟨.readFrame stop bufsel kind, rfl, rfl, rfl⟩
  · exact ⟨.send stop bufsel kind, rfl, rfl, rfl⟩
  · cases kind
    · exact ⟨.transactS stop bufsel, rfl, rfl, rfl⟩
    · exact ⟨.transactG stop bufsel, rfl, rfl, rfl⟩
  · exact ⟨.decode stop bufsel kind, rfl, rfl, rfl⟩

/-- Every word is the code of a well-formed command, in any configuration (R86, R87). -/
theorem exists_encode_eq_word (c : Config) (w : Word) :
    ∃ i : Instr, i.isCommand = true ∧ i.wf c = true ∧ encode c i = .word w := by
  by_cases h8 : 8 ≤ (w.extractLsb' 0 4).toNat
  · have hbit : (1 : BitVec 1) = w.extractLsb' 3 1 := by
      rw [← ofBool_getLsbD, getLsbD_three, decide_eq_true h8]
      rfl
    refine ⟨.badOp8F (w.extractLsb' 0 3) (w.extractLsb' 4 28), rfl, rfl, congrArg Code.word ?_⟩
    rw [hbit, append_fields w (show 4 = 3 + 1 from rfl), append_fields w (show 3 = 0 + 3 from rfl)]
    exact BitVec.extractLsb'_eq_self
  by_cases h7 : w.extractLsb' 0 4 = 7
  · refine ⟨.badOp7 (w.extractLsb' 4 28), rfl, rfl, congrArg Code.word ?_⟩
    rw [← h7, append_fields w (show 4 = 0 + 4 from rfl)]
    exact BitVec.extractLsb'_eq_self
  have hop : (w.extractLsb' 0 4).toNat < 7 := by
    have hne : (w.extractLsb' 0 4).toNat ≠ 7 := fun h => h7 (BitVec.eq_of_toNat_eq h)
    omega
  by_cases hres : w.extractLsb' 4 4 ≠ 0 ∨ w.extractLsb' 18 14 ≠ 0
  · refine ⟨.badReserved (w.extractLsb' 0 4) (w.extractLsb' 4 4) (w.extractLsb' 8 10)
      (w.extractLsb' 18 14), rfl, by simpa [Instr.wf] using ⟨hop, hres⟩, congrArg Code.word ?_⟩
    rw [append_fields w (show 18 = 8 + 10 from rfl), append_fields w (show 8 = 4 + 4 from rfl),
      append_fields w (show 4 = 0 + 4 from rfl)]
    exact BitVec.extractLsb'_eq_self
  · obtain ⟨hlo, hhi⟩ : w.extractLsb' 4 4 = 0 ∧ w.extractLsb' 18 14 = 0 := by simpa using hres
    have hw := commandWord_of_fields w
    rw [hlo, hhi] at hw
    rw [← hw]
    exact exists_operation c _ _ _ hop

/-- The instruction of a word is a well-formed command, and its code is the word. -/
theorem encode_decodeWord (c : Config) (w : Word) :
    (decodeWord w).isCommand = true ∧ (decodeWord w).wf c = true ∧ encode c (decodeWord w) = .word w := by
  obtain ⟨i, hi, hwf, hw⟩ := exists_encode_eq_word c w
  obtain ⟨w', hw', hd⟩ := encode_command hi hwf
  obtain rfl : w' = w := by simpa [hw'] using hw
  rw [hd]
  exact ⟨hi, hwf, hw⟩

/-- Settles O3. -/
theorem everyCommandWordReencodes : Obligations.EveryCommandWordReencodes := encode_decodeWord

/-! ## What a stream decodes to (O4) -/

/-- The selector byte of each class of R98, UNREC being the class of the others. -/
theorem selectorClass_cases (c : Config) (s : Byte) :
    (s = 0x40 ∧ selectorClass c s = .reset) ∨ (s = 0x2A ∧ selectorClass c s = .bitImage) ∨
    (s = 0x41 ∧ selectorClass c s = .lineSpace) ∨ (s = c.fontSel ∧ selectorClass c s = .fontFamily) ∨
    (s = c.pitchSel ∧ selectorClass c s = .pitch) ∨ selectorClass c s = .unrec := by
  unfold selectorClass
  by_cases h40 : s = 0x40
  · exact .inl ⟨h40, if_pos h40⟩
  by_cases h2A : s = 0x2A
  · exact .inr (.inl ⟨h2A, by rw [if_neg h40, if_pos h2A]⟩)
  by_cases h41 : s = 0x41
  · exact .inr (.inr (.inl ⟨h41, by rw [if_neg h40, if_neg h2A, if_pos h41]⟩))
  rw [if_neg h40, if_neg h2A, if_neg h41]
  by_cases hfont : s = c.fontSel
  · exact .inr (.inr (.inr (.inl ⟨hfont, if_pos hfont⟩)))
  by_cases hpitch : s = c.pitchSel
  · exact .inr (.inr (.inr (.inr (.inl ⟨hpitch, by rw [if_neg hfont, if_pos hpitch]⟩))))
  · exact .inr (.inr (.inr (.inr (.inr (by rw [if_neg hfont, if_neg hpitch])))))

/-- The two bytes of a column count are put apart again (R65, R99). -/
theorem bytes_of_columnCount (nl nh : Byte) :
    (columnCount nl nh).extractLsb' 0 8 = nl ∧ (columnCount nl nh).extractLsb' 8 8 = nh := by
  constructor <;> apply BitVec.eq_of_toNat_eq <;>
    simp only [columnCount, BitVec.toNat_add, BitVec.toNat_mul, BitVec.toNat_setWidth,
      BitVec.extractLsb'_toNat, BitVec.reduceToNat, Nat.shiftRight_eq_div_pow] <;>
    omega

/-- A command read after an escape byte is well-formed, and its bytes are the ones read (R96, R98 to
R100). -/
theorem decodeStream_escape {c : Config} {sel : Byte} {tail rest : List Byte} {i : Instr}
    (h : decodeStream c (escByte :: sel :: tail) = .ok (i, rest)) :
    i.wf c = true ∧ (encode c i).stream ++ rest = escByte :: sel :: tail := by
  simp only [decodeStream, if_true] at h
  rcases selectorClass_cases c sel with ⟨rfl, hs⟩ | ⟨rfl, hs⟩ | ⟨rfl, hs⟩ | ⟨rfl, hs⟩ | ⟨rfl, hs⟩ | hs <;>
    simp only [hs] at h
  · cases h
    exact ⟨rfl, rfl⟩
  · split at h
    · rename_i m nl nh ds
      split at h
      · rename_i hle
        cases h
        obtain ⟨hnl, hnh⟩ := bytes_of_columnCount nl nh
        refine ⟨by simpa [Instr.wf] using hle, ?_⟩
        simp [encode, Code.stream, hnl, hnh]
      · cases h
    · cases h
  · split at h <;> cases h
    exact ⟨rfl, rfl⟩
  · split at h <;> cases h
    exact ⟨rfl, rfl⟩
  · cases h
    exact ⟨rfl, rfl⟩
  · cases h
    exact ⟨by simpa [Instr.wf] using hs, rfl⟩

/-- Settles O4: an item is a text byte or begins with an escape. -/
theorem decodedStreamItemReencodes : Obligations.DecodedStreamItemReencodes := by
  intro c bs rest i h
  refine ⟨(decodeStream_ok h).1, ?_⟩
  cases bs with
  | nil => cases h
  | cons b tail =>
    by_cases hb : b = escByte
    · subst hb
      cases tail with
      | nil => simp [decodeStream] at h
      | cons sel tail => exact decodeStream_escape h
    · rw [decodeStream_txt hb] at h
      cases h
      exact ⟨by simpa [Instr.wf] using hb, rfl⟩

/-! ## The acceptance step (O10, O11) -/

section
variable {s : State} (hp : s.phase = .idle) (stop : Byte) (bufsel kind : Bool)
include hp

theorem exec_nop_idle :
    exec (.nop stop bufsel kind) s = .next (s.accept ⟨stop, bufsel, kind⟩ .nop) := by
  simp only [exec, execNop, hp]

theorem exec_readUntil_idle : exec (.readUntil stop bufsel kind) s =
    .next (s.accept ⟨stop, bufsel, kind⟩ (.readUntil .start)) := by
  simp only [exec, execReadUntil, hp]

theorem exec_readBlock_idle : exec (.readBlock stop bufsel kind) s =
    .next (s.clearBlockResults.accept ⟨stop, bufsel, kind⟩ (.readBlock .start)) := by
  simp only [exec, execReadBlock, hp]

theorem exec_readFrame_idle : exec (.readFrame stop bufsel kind) s =
    .next (s.clearBlockResults.accept ⟨stop, bufsel, kind⟩ (.readFrame (.token .start))) := by
  simp only [exec, execReadFrame, hp]

theorem exec_send_idle (hfits : s.regs.txlen.toNat ≤ s.cfg.txCap) :
    exec (.send stop bufsel kind) s = .next (s.accept ⟨stop, bufsel, kind⟩ .send) := by
  simp [exec, execSend, hp, State.txTooLong, hfits]

theorem exec_transactS_idle (hfits : s.regs.txlen.toNat ≤ s.cfg.txCap) :
    exec (.transactS stop bufsel) s =
      .next (s.clearTransactResults.accept ⟨stop, bufsel, false⟩ (.transactS .send)) := by
  simp [exec, execTransactS, hp, State.txTooLong, hfits]

theorem exec_transactG_idle (hfits : s.regs.txlen.toNat ≤ s.cfg.txCap) :
    exec (.transactG stop bufsel) s =
      .next (s.clearTransactResults.accept ⟨stop, bufsel, true⟩ (.transactG .send)) := by
  simp [exec, execTransactG, hp, State.txTooLong, hfits]

theorem exec_decode_idle (hfits : s.regs.paylen.toNat ≤ s.cfg.payloadCap) :
    exec (.decode stop bufsel kind) s =
      .next (s.clearDecodeResults.accept ⟨stop, bufsel, kind⟩ (.decode .clear)) := by
  simp [exec, execDecode, hp, State.payTooLong, hfits]

end

/-- Settles O11: each operation's acceptance, written out. -/
theorem acceptedOperationsStart : Obligations.AcceptedOperationsStart := by
  intro s stop bufsel kind hp
  exact ⟨exec_nop_idle hp .., exec_readUntil_idle hp .., exec_readBlock_idle hp ..,
    exec_readFrame_idle hp ..,
    fun hfits => ⟨exec_send_idle hp stop bufsel kind hfits, exec_transactS_idle hp stop bufsel hfits,
      exec_transactG_idle hp stop bufsel hfits⟩,
    exec_decode_idle hp stop bufsel kind⟩

/-- A bad word of R87 (a), (b) to an idle block is rejected (R213). -/
theorem State.badWord_idle {s : State} (hp : s.phase = .idle) : s.badWord = s.reject :=
  if_neg (by simp [State.busy, hp])

/-- Settles O10. -/
theorem badWordInstructionsReject : Obligations.BadWordInstructionsReject := by
  intro s hp
  have hreject : (.next s.badWord : Host.Outcome State Fault Refusal) = .next s.reject := by
    rw [State.badWord_idle hp]
  exact ⟨fun _ => hreject, fun _ _ => hreject, fun _ _ _ _ => hreject⟩

/-! ## Bad and good command words (O9, O50) -/

/-- An idle block rejects the command: a reserved OP or bit, or a length beyond its buffer (R87). -/
def State.Rejects (s : State) : Instr → Prop
  | .badOp7 _ | .badOp8F .. | .badReserved .. => True
  | .send .. | .transactS .. | .transactG .. => s.cfg.txCap < s.regs.txlen.toNat
  | .decode .. => s.cfg.payloadCap < s.regs.paylen.toNat
  | .nop .. | .readUntil .. | .readBlock .. | .readFrame .. => False
  | .escReset | .escBitimg .. | .escLsp _ | .escFam _ | .escPitch | .escUnrec _ | .txt _ => False

/-- The rule's conditions on the bits of a word are those on its instruction (R86, R87). -/
theorem badWord_encode {c : Config} {i : Instr} {w : Word} (s : State) (hi : i.isCommand = true)
    (hwf : i.wf c = true) (hw : encode c i = .word w) : BadWord w s ↔ s.Rejects i := by
  cases i with
  | badOp7 rest =>
    cases hw
    exact iff_of_true (.inr (.inl (by rw [(op7_fields rest).1]; decide))) trivial
  | badOp8F low rest =>
    cases hw
    obtain ⟨-, hbit, -⟩ := op8F_fields low rest
    have h8 := of_decide_eq_true ((getLsbD_three _).symm.trans hbit)
    exact iff_of_true (.inr (.inl (by omega))) trivial
  | badReserved op lo mid high =>
    cases hw
    obtain ⟨-, hlo, -, hhi⟩ := reserved_fields op lo mid high
    obtain ⟨-, hres⟩ : op.toNat < 7 ∧ (lo ≠ 0 ∨ high ≠ 0) := by simpa [Instr.wf] using hwf
    exact iff_of_true (.inl (by rwa [hlo, hhi])) trivial
  | nop | readUntil | readBlock | readFrame | send | transactS | transactG | decode =>
    cases hw
    simp [BadWord, commandWord_fields, State.Rejects]
  | escReset | escBitimg | escLsp | escFam | escPitch | escUnrec | txt => cases hi

theorem badWord_iff (w : Word) (s : State) : BadWord w s ↔ s.Rejects (decodeWord w) := by
  obtain ⟨hi, hwf, hw⟩ := encode_decodeWord s.cfg w
  exact badWord_encode s hi hwf hw

theorem State.txTooLong_iff {s : State} : s.txTooLong = true ↔ s.cfg.txCap < s.regs.txlen.toNat := by
  simp [State.txTooLong]

theorem State.payTooLong_iff {s : State} :
    s.payTooLong = true ↔ s.cfg.payloadCap < s.regs.paylen.toNat := by
  simp [State.payTooLong]

theorem exec_rejected_idle {s : State} {i : Instr} (hp : s.phase = .idle) (h : s.Rejects i) :
    exec i s = .next s.reject := by
  cases i with
  | badOp7 | badOp8F | badReserved => exact congrArg _ (State.badWord_idle hp)
  | send =>
    have hlong : s.txTooLong = true := State.txTooLong_iff.mpr h
    simp only [exec, execSend, hp, hlong, if_true]
  | transactS =>
    have hlong : s.txTooLong = true := State.txTooLong_iff.mpr h
    simp only [exec, execTransactS, hp, hlong, if_true]
  | transactG =>
    have hlong : s.txTooLong = true := State.txTooLong_iff.mpr h
    simp only [exec, execTransactG, hp, hlong, if_true]
  | decode =>
    have hlong : s.payTooLong = true := State.payTooLong_iff.mpr h
    simp only [exec, execDecode, hp, hlong, if_true]
  | nop | readUntil | readBlock | readFrame => cases h
  | escReset | escBitimg | escLsp | escFam | escPitch | escUnrec | txt => cases h

/-- Any other command starts its operation: BUSY = 1 and ERR = 0 (R88). -/
theorem exec_accepted_idle {s : State} {i : Instr} (hi : i.isCommand = true) (hp : s.phase = .idle)
    (h : ¬ s.Rejects i) : ∃ t, exec i s = .next t ∧ t.busy = true ∧ t.status.err = .noError := by
  cases i with
  | nop => exact ⟨_, exec_nop_idle hp .., rfl, rfl⟩
  | readUntil => exact ⟨_, exec_readUntil_idle hp .., rfl, rfl⟩
  | readBlock => exact ⟨_, exec_readBlock_idle hp .., rfl, rfl⟩
  | readFrame => exact ⟨_, exec_readFrame_idle hp .., rfl, rfl⟩
  | send => exact ⟨_, exec_send_idle hp _ _ _ (Nat.not_lt.mp h), rfl, rfl⟩
  | transactS => exact ⟨_, exec_transactS_idle hp _ _ (Nat.not_lt.mp h), rfl, rfl⟩
  | transactG => exact ⟨_, exec_transactG_idle hp _ _ (Nat.not_lt.mp h), rfl, rfl⟩
  | decode => exact ⟨_, exec_decode_idle hp _ _ _ (Nat.not_lt.mp h), rfl, rfl⟩
  | badOp7 | badOp8F | badReserved => exact absurd trivial h
  | escReset | escBitimg | escLsp | escFam | escPitch | escUnrec | txt => cases hi

/-- Settles O9: the write is a step of the word's instruction. -/
theorem exactlyBadWordsAreRejected : Obligations.ExactlyBadWordsAreRejected := by
  intro s w ts hts hp
  rw [stepRunsTheCommandWord s w ts hts hp]
  refine ⟨fun hbad => ?_, fun hgood => ?_⟩
  · exact exec_rejected_idle (s := s.setTurns ts) hp ((badWord_iff w (s.setTurns ts)).mp hbad)
  · exact exec_accepted_idle (s := s.setTurns ts) (decodeWord_isCommand w) hp
      (mt (badWord_iff w (s.setTurns ts)).mpr hgood)

/-- Settles O50: of all an idle block's steps only a CMD write leaves PHASE, and a bad word does not. -/
theorem onlyAnAcceptedCommandLeavesIdle : Obligations.OnlyAnAcceptedCommandLeavesIdle := by
  intro s t hp h ht
  rcases step_next h with ⟨hts, hb⟩ | ⟨ts, hts, hb⟩ | ⟨w, ts, hts, -, -⟩ | ⟨a, ts, -, ha⟩ | ⟨ts, -, rfl⟩
  · simp only [blockTurn, State.nextInstr, hp] at hb
    cases hb
    exact absurd hp ht
  · simp only [blockTurn, State.nextInstr, State.setTurns_phase, hp] at hb
    cases hb
    exact absurd hp ht
  · refine ⟨w, ts, hts, fun hbad => ht ?_⟩
    have hrejected := (exactlyBadWordsAreRejected s w ts hts hp).1 hbad
    rw [hrejected] at h
    cases h
    exact hp
  · exact absurd ((hostAccess_frame ha).1.trans hp) ht
  · exact absurd rfl ht

/-! ## The stream commands with no effect on the picture (O28) -/

/-- Settles O28. -/
theorem otherStreamCommandsOnlyConsume : Obligations.OtherStreamCommandsOnlyConsume :=
  fun _ => ⟨rfl, fun _ => rfl, fun _ => rfl, rfl, fun _ => rfl, fun _ => rfl⟩

/-! ## Runs of steps -/

/-- `k` steps of the machine: `core.run` at the model's own types. -/
def State.run (s : State) (k : Nat) : Host.Outcome State Fault Refusal := core.run k s

theorem State.run_succ {s t : State} (h : step s = .next t) (k : Nat) : s.run (k + 1) = t.run k := by
  simp only [State.run, Host.Core.run, core, h]

theorem State.run_one (s : State) : s.run 1 = step s := by
  simp only [State.run, Host.Core.run, core]
  cases step s <;> rfl

theorem State.run_add {s t : State} {k : Nat} (h : s.run k = .next t) (j : Nat) :
    s.run (k + j) = t.run j := by
  induction k generalizing s with
  | zero => cases h; rw [Nat.zero_add]
  | succ k ih =>
    cases hs : step s with
    | next u =>
      rw [State.run_succ hs] at h
      rw [Nat.add_right_comm, State.run_succ hs, ih h]
    | fault f => simp [State.run, Host.Core.run, core, hs] at h
    | refused r => simp [State.run, Host.Core.run, core, hs] at h

/-! ## A procedure inside a running operation -/

/-- One step of the machine from the step of the procedure at hand: its phases are phases of the operation,
and `fin` goes on from its return. `conclude` is the case in which the procedure is the whole body. -/
def resolve {π : Type} (s : State) (into : π → Phase) (fin : State → Host.Outcome State Fault Refusal) :
    Except Fault (Progress π) → Host.Outcome State Fault Refusal
  | .error f => .fault f
  | .ok .wait => .next s
  | .ok (.ended t) => .next t
  | .ok (.more p t) => .next (t.enter (into p))
  | .ok (.done t) => fin t

/-- Where PHASE is `into p` and the latched fields are `l`, a step of the machine left alone is a step of the
procedure `body` in its phase `p`. -/
def Plays {π : Type} (l : Latch) (body : π → State → Except Fault (Progress π)) (into : π → Phase)
    (fin : State → Host.Outcome State Fault Refusal) : Prop :=
  ∀ s p, s.env.turns = [] → s.latch = l → s.phase = into p → step s = resolve s into fin (body p s)

theorem conclude_eq_resolve {π : Type} (s : State) (into : π → Phase) (p : Except Fault (Progress π)) :
    conclude s into p = resolve s into (fun t => .next t.finish) p := by
  rcases p with f | (_ | u | ⟨q, u⟩ | u) <;> rfl

/-- A continuation that does not wait goes on from the state it is given, whatever state the step began
in. -/
theorem resolve_of_ne_wait {π : Type} {p : Except Fault (Progress π)} (h : p ≠ .ok .wait) (s s' : State)
    (into : π → Phase) (fin : State → Host.Outcome State Fault Refusal) :
    resolve s into fin p = resolve s' into fin p := by
  rcases p with f | (_ | u | ⟨q, u⟩ | u)
  · rfl
  · exact absurd rfl h
  all_goals rfl

/-- The procedure at hand may be called inside the body: then its return goes on with the caller. -/
theorem Plays.within {π ρ : Type} {l : Latch} {outer : ρ → State → Except Fault (Progress ρ)}
    {into : ρ → Phase} {fin : State → Host.Outcome State Fault Refusal} (h : Plays l outer into fin)
    {body : π → State → Except Fault (Progress π)} {call : π → ρ}
    {ret : State → Except Fault (Progress ρ)}
    (hcall : ∀ p s, outer (call p) s = Progress.within call ret (body p s))
    (hret : ∀ t, ret t ≠ .ok .wait) :
    Plays l body (fun p => into (call p)) (fun t => resolve t into fin (ret t)) := by
  intro s p hts hl hp
  rw [h s (call p) hts hl hp, hcall]
  rcases body p s with f | (_ | u | ⟨q, u⟩ | u)
  case ok.done => exact resolve_of_ne_wait (hret u) s u into fin
  all_goals rfl

/-- The block's own turn, when the schedule is exhausted, runs the instruction at hand. -/
theorem step_of_exhausted {s : State} {i : Instr} (hts : s.env.turns = []) (hi : s.nextInstr = some i) :
    step s = exec i s := by
  rw [step_of_nextInstr (.inl ⟨hts, rfl⟩) hi, State.setTurns_eq_self hts]

theorem plays_readBlock (l : Latch) :
    Plays l blockStep Phase.readBlock (fun t => .next t.finish) := by
  intro s p hts _ hp
  rw [step_of_exhausted hts (by simp only [State.nextInstr, hp]; rfl)]
  simp only [exec, execReadBlock, hp, conclude_eq_resolve]

theorem plays_transactS (l : Latch) :
    Plays l simpleStep Phase.transactS (fun t => .next t.finish) := by
  intro s p hts _ hp
  rw [step_of_exhausted hts (by simp only [State.nextInstr, hp]; rfl)]
  simp only [exec, execTransactS, hp, conclude_eq_resolve]

theorem plays_transactG (l : Latch) :
    Plays l graphicsStep Phase.transactG (fun t => .next t.finish) := by
  intro s p hts _ hp
  rw [step_of_exhausted hts (by simp only [State.nextInstr, hp]; rfl)]
  simp only [exec, execTransactG, hp, conclude_eq_resolve]

/-! ## Reading from the channel -/

/-- What a read does with the answer to its `ChRead`: it goes on in its loop after an `Empty`, and acts on a
byte. -/
def ByteRead.andThen {π : Type} (loop : π) (act : Byte → State → Except Fault (Progress π)) :
    ByteRead → Except Fault (Progress π)
  | .wait => .ok .wait
  | .ended u => .ok (.ended u)
  | .again u => .ok (.more loop u)
  | .byte b u => act b u

/-- What `ReadToken` does with a byte (R118, R119). -/
def tokenByte (stop : Byte) (ack : Bool) (b : Byte) (u : State) : Except Fault (Progress TokenPhase) :=
  if b = stop then .ok (if u.fr.ovf then .ended (u.raiseErr .tokenOverflow) else .done u)
  else
    match u.storeToken ack b with
    | .error f => .error f
    | .ok v => .ok (.more .loop v)

/-- What `ReadBlock` does with a byte (R124). -/
def blockByte (b : Byte) (u : State) : Except Fault (Progress BlockPhase) :=
  if u.fr.remain = 0 then .ok (.done (u.recordChecksum b))
  else
    match u.storeBlock b with
    | .error f => .error f
    | .ok v => .ok (.more .loop v)

theorem tokenStep_loop (stop : Byte) (ack : Bool) (s : State) :
    tokenStep .loop stop ack s = (readByte s).andThen .loop (tokenByte stop ack) := by
  unfold tokenStep
  cases readByte s <;> rfl

theorem blockStep_loop (s : State) :
    blockStep .loop s = (readByte s).andThen .loop blockByte := by
  unfold blockStep
  cases readByte s <;> rfl

theorem readByte_byte {s : State} {b : Byte} {rs : List ReadAnswer} (h : s.env.reads = .byte b :: rs) :
    readByte s = .byte b ((s.setReads rs).setEmptycnt 0) := by
  simp only [readByte, h]

theorem readByte_empty {s : State} {rs : List ReadAnswer} (h : s.env.reads = .empty :: rs)
    (hlimit : (s.fr.emptycnt + 1).toNat ≠ s.cfg.emptyLimit) :
    readByte s = .again ((s.setReads rs).setEmptycnt (s.fr.emptycnt + 1)) := by
  simp only [readByte, h, if_neg hlimit]

/-- What a read of the bytes `data` keeps, of the bytes read so far and the state: the channel, its empty
count and PHASE have no part in it, and acting on the next data byte keeps it. -/
structure Reader {π : Type} (l : Latch) (limit : Nat) (loop : π)
    (act : Byte → State → Except Fault (Progress π)) (K : List Byte → State → Prop)
    (data : List Byte) : Prop where
  turns : ∀ {seen s}, K seen s → s.env.turns = []
  latch : ∀ {seen s}, K seen s → s.latch = l
  limit : ∀ {seen s}, K seen s → s.cfg.emptyLimit = limit
  taken : ∀ {seen s} (rs : List ReadAnswer) (n : Word), K seen s → K seen ((s.setReads rs).setEmptycnt n)
  enter : ∀ {seen s} (p : Phase), K seen s → K seen (s.enter p)
  byte : ∀ {seen b more s}, data = seen ++ b :: more → K seen s →
    ∃ t, act b s = .ok (.more loop t) ∧ t.env = s.env ∧ t.fr.emptycnt = s.fr.emptycnt ∧ K (seen ++ [b]) t

/-- A whole read, one answer in each step (notes/assumptions/10.md): with empty answers that never reach
EMPTY_LIMIT in a row, the data bytes are acted on in order, and then the byte `c` after them. The first
step reads in `u`, the state once the read's first lines have run. -/
theorem Reader.run {π : Type} {l : Latch} {limit : Nat} {loop : π}
    {act : Byte → State → Except Fault (Progress π)} {K : List Byte → State → Prop} {data : List Byte}
    {body : π → State → Except Fault (Progress π)} {into : π → Phase}
    {fin : State → Host.Outcome State Fault Refusal} (hr : Reader l limit loop act K data)
    (hlimit : limit < 2 ^ 32) (hplays : Plays l body into fin)
    (hloop : ∀ u, body loop u = (readByte u).andThen loop act)
    {rs rest : List ReadAnswer} {c : Byte} {seen more : List Byte} {s u : State} {n : Nat}
    (hstep : step s = resolve s into fin (body loop u)) (hK : K seen u) (hdata : data = seen ++ more)
    (hbytes : rs.filter (· ≠ ReadAnswer.empty) = answers more) (hcount : u.fr.emptycnt.toNat = n)
    (hpaced : paced limit n rs = true) (hreads : u.env.reads = rs ++ ReadAnswer.byte c :: rest) :
    ∃ s' v, s.run (rs.length + 1) = resolve s' into fin (act c v) ∧ K data v ∧
      v.env.reads = rest := by
  induction rs generalizing s u seen more n with
  | nil =>
    have hmore : more = [] := by simpa [answers] using hbytes.symm
    subst hmore
    rw [List.append_nil] at hdata
    subst hdata
    refine ⟨s, (u.setReads rest).setEmptycnt 0, ?_, hr.taken rest 0 hK, rfl⟩
    rw [List.length_nil, Nat.zero_add, State.run_one, hstep, hloop, readByte_byte hreads]
    rfl
  | cons a rs ih =>
    cases a with
    | fail => simp [paced] at hpaced
    | empty =>
      simp only [paced, Bool.and_eq_true, decide_eq_true_eq] at hpaced
      obtain ⟨hlt, hpaced⟩ := hpaced
      have hnext : (u.fr.emptycnt + 1).toNat = n + 1 := by
        simp only [BitVec.toNat_add, BitVec.reduceToNat]; omega
      have hgo := readByte_empty hreads (by rw [hnext, hr.limit hK]; omega)
      have hK' := hr.enter (into loop) (hr.taken (rs ++ .byte c :: rest) (u.fr.emptycnt + 1) hK)
      rw [hloop, hgo] at hstep
      obtain ⟨s', v, hrun, hv⟩ := ih (hplays _ loop (hr.turns hK') (hr.latch hK') rfl) hK' hdata
        (by simpa using hbytes) hnext hpaced rfl
      exact ⟨s', v, (State.run_succ hstep _).trans hrun, hv⟩
    | byte b =>
      obtain ⟨more', rfl, hbytes'⟩ : ∃ more', more = b :: more' ∧
          rs.filter (· ≠ ReadAnswer.empty) = answers more' := by
        cases more with
        | nil => simp [answers] at hbytes
        | cons d more' =>
          obtain ⟨hb, htail⟩ : b = d ∧ _ := by simpa [answers] using hbytes
          exact ⟨more', by rw [hb], by simpa [answers] using htail⟩
      obtain ⟨t, hact, henv, hempty, hKt⟩ := hr.byte hdata (hr.taken (rs ++ .byte c :: rest) 0 hK)
      have hK' := hr.enter (into loop) hKt
      have hgo : step s = .next (t.enter (into loop)) := by
        rw [hstep, hloop, readByte_byte hreads]
        exact congrArg (resolve s into fin) hact
      obtain ⟨s', v, hrun, hv⟩ := ih (n := 0) (hplays _ loop (hr.turns hK') (hr.latch hK') rfl) hK'
        (by simpa using hdata) hbytes' (by simp [hempty]) hpaced (by simp [henv])
      exact ⟨s', v, (State.run_succ hgo _).trans hrun, hv⟩

/-- Bytes with no empty answer between them keep any pace (R122). -/
theorem paced_answers (limit n : Nat) (bs : List Byte) : paced limit n (answers bs) = true := by
  induction bs generalizing n with
  | nil => rfl
  | cons b bs ih => exact ih 0

theorem filter_answers (bs : List Byte) :
    (answers bs).filter (· ≠ ReadAnswer.empty) = answers bs := by
  simp [answers]

@[simp] theorem answers_length (bs : List Byte) : (answers bs).length = bs.length := List.length_map ..

/-! ## Bytes stored one after another -/

theorem Config.tokenCap_le {c : Config} (h : c.Legal) : c.tokenCap ≤ 65535 := by
  obtain ⟨-, -, ⟨-, hcap⟩, -⟩ := h
  exact hcap

theorem Config.emptyLimit_lt {c : Config} (h : c.Legal) : c.emptyLimit < 2 ^ 32 := by
  obtain ⟨-, -, -, -, -, ⟨-, hmax⟩, -⟩ := h
  omega

/-- Every buffer is in canonical form. -/
def State.Canonical (s : State) : Prop := ∀ sp, Memory.wf (s.bufs.get sp) = true

theorem State.Canonical.store {s : State} (h : s.Canonical) (sp : Space) (i : Nat) (v : Byte) :
    (s.setBuf sp (Memory.write (s.bufs.get sp) i v)).Canonical := by
  intro sp'
  rw [State.setBuf_bufs]
  by_cases he : sp' = sp
  · subst he; rw [Buffers.get_set_same]; exact Memory.wf_write (h sp') i v
  · rw [Buffers.get_set_other _ he]; exact h sp'

theorem holdsFront_nil (s : State) (sp : Space) (cap : Nat) : HoldsFront s s sp [] cap :=
  ⟨fun i => by simp, fun _ _ _ => rfl⟩

/-- A byte stored below the capacity, right after the bytes held. -/
theorem HoldsFront.store {s t : State} {sp : Space} {bs : List Byte} {cap : Nat}
    (h : HoldsFront s t sp bs cap) (hwf : t.Canonical) (hlt : bs.length < cap) (b : Byte) :
    HoldsFront s (t.setBuf sp (Memory.write (t.bufs.get sp) bs.length b)) sp (bs ++ [b]) cap := by
  obtain ⟨hfront, hother⟩ := h
  refine ⟨fun i => ?_, fun sp' i hsp => ?_⟩
  · by_cases hi : i = bs.length
    · subst hi
      rw [State.byteAt_store_same (hwf sp), if_pos (by simp; omega)]
      simp
    · rw [State.byteAt_store_other (by simpa using hi), hfront i]
      have hiff : i < min (bs ++ [b]).length cap ↔ i < min bs.length cap := by
        rw [List.length_append, List.length_singleton]; omega
      simp only [hiff]
      split
      · rw [List.getD_append _ _ _ _ (by omega)]
      · rfl
  · rw [State.byteAt_store_other (by simp [hsp]), hother sp' i hsp]

/-- A byte beyond the capacity changes nothing of what is held. -/
theorem HoldsFront.drop {s t : State} {sp : Space} {bs : List Byte} {cap : Nat}
    (h : HoldsFront s t sp bs cap) (hle : cap ≤ bs.length) (b : Byte) :
    HoldsFront s t sp (bs ++ [b]) cap := by
  obtain ⟨hfront, hother⟩ := h
  refine ⟨fun i => ?_, hother⟩
  rw [hfront i, Nat.min_eq_right hle, Nat.min_eq_right (by simp; omega)]
  split
  · rw [List.getD_append _ _ _ _ (by omega)]
  · rfl

/-! ## A whole token -/

/-- The state after the bytes `seen` of a token that began in `s` (R118, R119). -/
structure State.TokenRead (s : State) (ack : Bool) (seen : List Byte) (t : State) : Prop where
  cfg : t.cfg = s.cfg
  status : t.status = s.status
  latch : t.latch = s.latch
  rd : t.rd = s.rd
  env : t.env = { s.env with reads := t.env.reads }
  regs : t.regs = (s.setTokenLen ack (BitVec.ofNat 32 (min seen.length s.cfg.tokenCap))).regs
  ovf : t.fr.ovf = decide (s.cfg.tokenCap < seen.length)
  canonical : t.Canonical
  holds : HoldsFront s t (tokenSpace ack) seen s.cfg.tokenCap

theorem State.tokenRead_startToken {s : State} (hwf : s.Canonical) (ack : Bool) :
    s.TokenRead ack [] (s.startToken ack) where
  cfg := by simp
  status := by simp
  latch := by simp
  rd := by simp
  env := by rw [State.startToken_env]
  regs := by cases ack <;> simp
  ovf := by simp
  canonical := by simpa [State.Canonical] using hwf
  holds := by simp [HoldsFront, State.byteAt]

theorem State.TokenRead.tokenLen {s t : State} {ack : Bool} {seen : List Byte}
    (h : s.TokenRead ack seen t) (hcap : s.cfg.tokenCap ≤ 65535) :
    (t.tokenLen ack).toNat = min seen.length s.cfg.tokenCap := by
  have hregs := h.regs
  have hlen : t.tokenLen ack = BitVec.ofNat 32 (min seen.length s.cfg.tokenCap) := by
    cases ack <;> simp_all [State.tokenLen]
  rw [hlen, BitVec.toNat_ofNat]
  omega

theorem State.TokenRead.store {s t u : State} {ack : Bool} {seen : List Byte} {b : Byte}
    (h : s.TokenRead ack seen t) (hcap : s.cfg.tokenCap ≤ 65535) (hu : t.storeToken ack b = .ok u) :
    s.TokenRead ack (seen ++ [b]) u := by
  have hlen := h.tokenLen hcap
  have hregs := h.regs
  have hcfg := h.cfg
  rcases State.storeToken_ok hu with ⟨hlt, rfl⟩ | ⟨hle, rfl⟩
  · have hseen : seen.length < s.cfg.tokenCap := by rw [hlen, hcfg] at hlt; omega
    have hat : (t.tokenLen ack).toNat = seen.length := by omega
    have hnext : t.tokenLen ack + 1 =
        BitVec.ofNat 32 (min (seen ++ [b]).length s.cfg.tokenCap) := by
      apply BitVec.eq_of_toNat_eq
      simp only [BitVec.toNat_add, hat, BitVec.reduceToNat, BitVec.toNat_ofNat, List.length_append,
        List.length_singleton]
      omega
    have hstored := h.holds.store h.canonical hseen b
    rw [← hat] at hstored
    exact {
      cfg := by simpa using hcfg
      status := by simpa using h.status
      latch := by simpa using h.latch
      rd := by simpa using h.rd
      env := by simpa using h.env
      regs := by rw [hnext]; cases ack <;> simp [hregs]
      ovf := by simp [h.ovf]; omega
      canonical := by
        simpa [State.Canonical] using h.canonical.store (tokenSpace ack) (t.tokenLen ack).toNat b
      holds := by simpa [HoldsFront, State.byteAt] using hstored }
  · have hseen : s.cfg.tokenCap ≤ seen.length := by rw [hlen, hcfg] at hle; omega
    exact {
      cfg := hcfg
      status := h.status
      latch := h.latch
      rd := h.rd
      env := h.env
      regs := by
        rw [Nat.min_eq_right hseen] at hregs
        rw [Nat.min_eq_right (by simp; omega)]
        exact hregs
      ovf := by simp; omega
      canonical := h.canonical
      holds := h.holds.drop hseen b }

/-- What `ReadToken` keeps while it reads a token without its stop byte. -/
theorem State.tokenReader {s : State} (hcap : s.cfg.tokenCap ≤ 65535) (hts : s.env.turns = [])
    {stop : Byte} (ack : Bool) {token : List Byte} (hstop : stop ∉ token) :
    Reader s.latch s.cfg.emptyLimit TokenPhase.loop (tokenByte stop ack) (s.TokenRead ack) token where
  turns h := by rw [h.env]; exact hts
  latch h := h.latch
  limit h := by rw [h.cfg]
  taken _ _ h := { h with env := by simp only [State.setEmptycnt_env, State.setReads_env]; rw [h.env] }
  enter _ h := { h with }
  byte {seen b more t} hdata h := by
    have hne : b ≠ stop := by rintro rfl; exact hstop (by simp [hdata])
    cases hu : t.storeToken ack b with
    | error f => exact absurd hu (State.storeToken_no_fault _ _ _ _)
    | ok u =>
      refine ⟨u, by simp only [tokenByte, if_neg hne, hu], (State.storeToken_sameOutside hu).2, ?_,
        h.store hcap hu⟩
      rcases State.storeToken_ok hu with ⟨-, rfl⟩ | ⟨-, rfl⟩ <;> simp

/-- A whole `ReadToken` from its start (R116 to R119), in any operation: the bytes up to the stop byte,
and either its return or TOKEN_OVERFLOW. -/
theorem token_run {s : State} {stop : Byte} {ack : Bool} {token : List Byte} {rs rest : List ReadAnswer}
    {into : TokenPhase → Phase} {fin : State → Host.Outcome State Fault Refusal}
    (hplays : Plays s.latch (fun p => tokenStep p stop ack) into fin)
    (hc : s.cfg.Legal) (hwf : s.Canonical) (hts : s.env.turns = []) (hp : s.phase = into .start)
    (hstop : stop ∉ token) (hbytes : rs.filter (· ≠ ReadAnswer.empty) = answers token)
    (hpaced : paced s.cfg.emptyLimit 0 rs = true)
    (hreads : s.env.reads = rs ++ ReadAnswer.byte stop :: rest) :
    ∃ v, s.TokenRead ack token v ∧ v.env.reads = rest ∧
      s.run (rs.length + 1) =
        if s.cfg.tokenCap < token.length then .next (v.raiseErr .tokenOverflow) else fin v := by
  obtain ⟨s', v, hrun, hread, hrest⟩ := (State.tokenReader (Config.tokenCap_le hc) hts ack hstop).run
    (Config.emptyLimit_lt hc) hplays (fun u => tokenStep_loop stop ack u) (seen := []) (n := 0)
    ((hplays s .start hts rfl hp).trans (congrArg _ (tokenStep_start stop ack s)))
    (State.tokenRead_startToken hwf ack) rfl hbytes (by simp) hpaced (by simpa using hreads)
  have hend : tokenByte stop ack stop v =
      .ok (if s.cfg.tokenCap < token.length then .ended (v.raiseErr .tokenOverflow) else .done v) := by
    simp [tokenByte, hread.ovf]
  refine ⟨v, hread, hrest, hrun.trans ?_⟩
  rw [hend]
  split <;> rfl

/-! ## A whole block -/

/-- The state after the data bytes `seen` of a block that began in `s` (R124, R125). -/
structure State.BlockRead (s : State) (seen : List Byte) (t : State) : Prop where
  cfg : t.cfg = s.cfg
  status : t.status = s.startBlock.status
  latch : t.latch = s.latch
  rd : t.rd = s.rd
  env : t.env = { s.env with reads := t.env.reads }
  regs : t.regs = { s.regs with paylen := BitVec.ofNat 32 (min seen.length s.cfg.payloadCap) }
  remain : t.fr.remain = s.regs.blklen - BitVec.ofNat 32 seen.length
  idx : t.fr.idx = BitVec.ofNat 32 seen.length
  sumacc : t.fr.sumacc = byteSum seen
  canonical : t.Canonical
  holds : HoldsFront s t .payload seen s.cfg.payloadCap

theorem State.blockRead_startBlock {s : State} (hwf : s.Canonical) : s.BlockRead [] s.startBlock where
  cfg := rfl
  status := rfl
  latch := rfl
  rd := rfl
  env := rfl
  regs := by simp
  remain := by simp
  idx := rfl
  sumacc := rfl
  canonical := hwf
  holds := holdsFront_nil s .payload s.cfg.payloadCap

theorem byteSum_append_singleton (bs : List Byte) (b : Byte) : byteSum (bs ++ [b]) = byteSum bs + b := by
  simp [byteSum]

/-- A register that counts the bytes read counts one more, modulo 2^32. -/
theorem ofNat_length_succ (seen : List Byte) (b : Byte) :
    (BitVec.ofNat 32 (seen ++ [b]).length : Word) = BitVec.ofNat 32 seen.length + 1 := by
  rw [List.length_append, List.length_singleton, BitVec.ofNat_add]
  rfl

theorem State.BlockRead.store {s t u : State} {seen : List Byte} {b : Byte} (h : s.BlockRead seen t)
    (hshort : seen.length < 2 ^ 32) (hu : t.storeBlock b = .ok u) : s.BlockRead (seen ++ [b]) u := by
  have hcfg := h.cfg
  have hidx := h.idx
  have hat : t.fr.idx.toNat = seen.length := by rw [hidx, BitVec.toNat_ofNat]; omega
  have hremain : t.fr.remain - 1 = s.regs.blklen - BitVec.ofNat 32 (seen ++ [b]).length := by
    rw [h.remain, ofNat_length_succ, BitVec.sub_sub]
  have hsum : t.fr.sumacc + b = byteSum (seen ++ [b]) := by rw [byteSum_append_singleton, h.sumacc]
  have hnext : t.fr.idx + 1 = BitVec.ofNat 32 (seen ++ [b]).length := by
    rw [ofNat_length_succ, hidx]
  rcases State.storeBlock_ok hu with ⟨hlt, rfl⟩ | ⟨hle, rfl⟩
  · have hseen : seen.length < s.cfg.payloadCap := by rw [hat, hcfg] at hlt; exact hlt
    have hstored := h.holds.store h.canonical hseen b
    rw [← hat] at hstored
    exact {
      cfg := hcfg
      status := h.status
      latch := h.latch
      rd := h.rd
      env := h.env
      regs := by
        rw [Nat.min_eq_left (by simp; omega), ← hnext]
        simp [h.regs]
      remain := hremain
      idx := hnext
      sumacc := hsum
      canonical := h.canonical.store .payload t.fr.idx.toNat b
      holds := hstored }
  · have hseen : s.cfg.payloadCap ≤ seen.length := by rw [hat, hcfg] at hle; exact hle
    exact {
      cfg := hcfg
      status := h.status
      latch := h.latch
      rd := h.rd
      env := h.env
      regs := by
        have hregs := h.regs
        rw [Nat.min_eq_right hseen] at hregs
        rw [Nat.min_eq_right (by simp; omega)]
        exact hregs
      remain := hremain
      idx := hnext
      sumacc := hsum
      canonical := h.canonical
      holds := h.holds.drop hseen b }

/-- REMAIN is what BLKLEN names, less the bytes read. -/
theorem State.BlockRead.remain_toNat {s t : State} {seen : List Byte} (h : s.BlockRead seen t)
    (hle : seen.length ≤ s.regs.blklen.toNat) :
    t.fr.remain.toNat = s.regs.blklen.toNat - seen.length := by
  rw [h.remain, BitVec.toNat_sub, BitVec.toNat_ofNat]
  omega

/-- What `ReadBlock` keeps while it reads its data bytes. -/
theorem State.blockReader {s : State} (hts : s.env.turns = []) {data : List Byte}
    (hlen : s.regs.blklen.toNat = data.length) :
    Reader s.latch s.cfg.emptyLimit BlockPhase.loop blockByte s.BlockRead data where
  turns h := by rw [h.env]; exact hts
  latch h := h.latch
  limit h := by rw [h.cfg]
  taken _ _ h := { h with env := by simp only [State.setEmptycnt_env, State.setReads_env]; rw [h.env] }
  enter _ h := { h with }
  byte {seen b more t} hdata h := by
    have hmore : seen.length < s.regs.blklen.toNat := by rw [hlen, hdata]; simp
    have hremain : t.fr.remain ≠ 0 := by
      intro h0
      have hleft := h.remain_toNat hmore.le
      simp only [h0, BitVec.reduceToNat] at hleft
      omega
    cases hu : t.storeBlock b with
    | error f => exact absurd hu (State.storeBlock_no_fault _ _ _)
    | ok u =>
      refine ⟨u, by simp only [blockByte, if_neg hremain, hu], (State.storeBlock_sameOutside hu).2, ?_,
        h.store (by omega) hu⟩
      rcases State.storeBlock_ok hu with ⟨-, rfl⟩ | ⟨-, rfl⟩ <;> rfl

/-- A whole `ReadBlock` from its start (R124, R125), in any operation: BLKLEN data bytes and the checksum
byte, whatever they are. -/
theorem block_run {s : State} {data : List Byte} {c : Byte} {rs rest : List ReadAnswer}
    {into : BlockPhase → Phase} {fin : State → Host.Outcome State Fault Refusal}
    (hplays : Plays s.latch blockStep into fin)
    (hc : s.cfg.Legal) (hwf : s.Canonical) (hts : s.env.turns = []) (hp : s.phase = into .start)
    (hlen : s.regs.blklen.toNat = data.length)
    (hbytes : rs.filter (· ≠ ReadAnswer.empty) = answers data)
    (hpaced : paced s.cfg.emptyLimit 0 rs = true)
    (hreads : s.env.reads = rs ++ ReadAnswer.byte c :: rest) :
    ∃ v, s.BlockRead data v ∧ v.env.reads = rest ∧
      s.run (rs.length + 1) = fin (v.recordChecksum c) := by
  obtain ⟨s', v, hrun, hread, hrest⟩ := (State.blockReader hts hlen).run
    (Config.emptyLimit_lt hc) hplays blockStep_loop (seen := []) (n := 0)
    ((hplays s .start hts rfl hp).trans (congrArg _ (blockStep_start s)))
    (State.blockRead_startBlock hwf) rfl hbytes rfl hpaced hreads
  have hremain : v.fr.remain = 0 := by
    apply BitVec.eq_of_toNat_eq
    simp only [hread.remain_toNat hlen.ge, BitVec.reduceToNat]
    omega
  refine ⟨v, hread, hrest, hrun.trans ?_⟩
  rw [blockByte, if_pos hremain]
  rfl

/-! ## READ_BLOCK (O14) -/

/-- Settles O14: acceptance, and one step for each answer. -/
theorem checksummedBlockRun : Obligations.ChecksummedBlockRun := by
  intro s stop bufsel kind data c rs rest hs hp hts hlen hbytes hpaced hreads
  obtain ⟨v, hv, hrest, hrun⟩ := block_run
    (s := s.clearBlockResults.accept ⟨stop, bufsel, kind⟩ (.readBlock .start))
    (plays_readBlock _) hs.cfgLegal hs.bufsCanonical hts rfl hlen hbytes hpaced hreads
  refine ⟨_, _, _, exec_readBlock_idle hp stop bufsel kind, hrun, rfl, hv.cfg, hv.rd, hv.latch, ?_, ?_,
    ?_, hv.holds⟩
  · rw [State.finish_env, State.recordChecksum_env, hv.env, hrest]
    rfl
  · rw [State.finish_regs, State.recordChecksum_regs, hv.regs, hv.sumacc]
    rfl
  · rw [State.finish_status, State.recordChecksum_status, hv.status, hv.sumacc]
    simp [hlen]

/-! ## The write of the command frame (O55) -/

/-- The phase of a transaction in which it writes its frame. -/
def Phase.sending (graphics : Bool) : Phase := if graphics then .transactG .send else .transactS .send

/-- The phases of a transaction in which it reads its ack token. -/
def Phase.acking (graphics : Bool) (t : TokenPhase) : Phase :=
  if graphics then .transactG (.ack t) else .transactS (.ack t)

/-- The phases of a transaction in which it reads what follows a successful ack. -/
def Phase.following (graphics : Bool) (t : TokenPhase) : Phase :=
  if graphics then .transactG (.frame (.token t)) else .transactS (.second t)

/-- The state after a TRANSACT's acceptance. -/
def State.acceptTransact (s : State) (graphics : Bool) (stop : Byte) (bufsel : Bool) : State :=
  s.clearTransactResults.accept ⟨stop, bufsel, graphics⟩ (.sending graphics)

theorem exec_transact_idle {s : State} (hp : s.phase = .idle) (hfits : s.regs.txlen.toNat ≤ s.cfg.txCap)
    (graphics : Bool) (stop : Byte) (bufsel : Bool) :
    exec (transact graphics stop bufsel) s = .next (s.acceptTransact graphics stop bufsel) := by
  cases graphics
  · exact exec_transactS_idle hp stop bufsel hfits
  · exact exec_transactG_idle hp stop bufsel hfits

/-- SendCommand inside a transaction of either kind: its return goes on with the ack token. -/
theorem plays_sending (l : Latch) (graphics : Bool) :
    Plays l (fun _ : Unit => sendCommand) (fun _ => .sending graphics)
      (fun t => .next (t.enter (.acking graphics .start))) := by
  cases graphics
  · exact (plays_transactS l).within (call := fun _ => .send) (fun _ _ => rfl) (fun _ => nofun)
  · exact (plays_transactG l).within (call := fun _ => .send) (fun _ _ => rfl) (fun _ => nofun)

theorem State.txFrame_eq {s : State} (h : s.regs.txlen.toNat ≤ s.cfg.txCap) :
    s.txFrame = .ok s.commandFrame := by
  have hok := State.txFrame_of_le h
  rw [hok, State.txFrame_ok hok]

/-- The whole frame was written (R137). -/
theorem sendCommand_done {s : State} {ws : List WriteAnswer} (h : s.regs.txlen.toNat ≤ s.cfg.txCap)
    (hw : s.env.writes = .ok s.commandFrame.length :: ws) :
    sendCommand s = .ok (.done (s.recordWrite s.commandFrame ws)) := by
  simp only [sendCommand, State.txFrame_eq h, hw, if_true]

/-- Any other answer is WRITE_FAIL (R137). -/
theorem sendCommand_failed {s : State} {a : WriteAnswer} {ws : List WriteAnswer}
    (h : s.regs.txlen.toNat ≤ s.cfg.txCap) (hw : s.env.writes = a :: ws)
    (ha : a ≠ .ok s.commandFrame.length) :
    sendCommand s = .ok (.ended ((s.recordWrite s.commandFrame ws).raiseErr .writeFail)) := by
  cases a with
  | ok k =>
    have hk : k ≠ s.commandFrame.length := by rintro rfl; exact ha rfl
    simp only [sendCommand, State.txFrame_eq h, hw, if_neg hk]
  | fail => simp only [sendCommand, State.txFrame_eq h, hw]

/-- Settles O55: the step after acceptance is the write, and it ends the operation. -/
theorem failedWriteEndsTheTransaction : Obligations.FailedWriteEndsTheTransaction := by
  intro s stop bufsel graphics a ws hp hts hfits hw ha
  refine ⟨_, exec_transact_idle hp hfits graphics stop bufsel, by cases graphics <;> rfl, ?_⟩
  have hsend := sendCommand_failed (s := s.acceptTransact graphics stop bufsel) hfits hw ha
  have hstep := plays_sending _ graphics (s.acceptTransact graphics stop bufsel) () hts rfl rfl
  refine (State.run_one _).trans (hstep.trans ((congrArg _ hsend).trans ?_))
  rw [hp]
  rfl

/-! ## The ack token -/

/-- ACK_VALID and ACK_OK as the end of the ack token records them (R140 to R142). -/
def State.withAck (s : State) : State :=
  { s with status := { s.status with
      ackValid := true
      ackOk := decide (1 ≤ s.regs.acklen.toNat) && decide (s.byteAt .ackbuf 0 = 0x30) } }

theorem State.withAck_status {s : State} (h : s.withAck.status.ackOk = true) :
    s.withAck.status = { s.status with ackValid := true, ackOk := true } :=
  congrArg (fun ok => { s.status with ackValid := true, ackOk := ok }) h

theorem State.recordAck_eq {s : State} (h : 1 ≤ s.cfg.tokenCap) : s.recordAck = .ok s.withAck := by
  simp only [State.recordAck, State.ackIsOk_eq h]
  rfl

/-- The return of a transaction's ack token (R140, R141, R143). -/
def State.afterAck (s : State) (graphics : Bool) : State :=
  if s.withAck.status.ackOk then s.withAck.enter (.following graphics .start) else s.withAck.finish

/-- The ack token inside a transaction of either kind, and its return. -/
theorem plays_acking (l : Latch) (graphics : Bool) :
    ∃ fin, Plays l (fun p => tokenStep p carriageReturn true) (.acking graphics) fin ∧
      ∀ v : State, 1 ≤ v.cfg.tokenCap → fin v = .next (v.afterAck graphics) := by
  have hret : ∀ {π : Type} (onSuccess : π) (v : State),
      (match v.recordAck with
        | .error f => .error f
        | .ok u => .ok (if u.status.ackOk then .more onSuccess u else .done u) :
          Except Fault (Progress π)) ≠ .ok .wait := by
    intro π onSuccess v
    split
    · nofun
    · split <;> nofun
  cases graphics
  · refine ⟨_, (plays_transactS l).within (call := .ack) (fun _ _ => rfl) (hret (SimplePhase.second .start)),
      fun v hcap => ?_⟩
    rw [State.recordAck_eq hcap, State.afterAck]
    dsimp only
    split <;> rfl
  · refine ⟨_, (plays_transactG l).within (call := .ack) (fun _ _ => rfl)
      (hret (GraphicsPhase.frame (.token .start))), fun v hcap => ?_⟩
    rw [State.recordAck_eq hcap, State.afterAck]
    dsimp only
    split <;> rfl

/-- The state in which a transaction reads its ack token: its frame is written. -/
def State.sentTransact (s : State) (graphics : Bool) (stop : Byte) (bufsel : Bool)
    (ws : List WriteAnswer) : State :=
  ((s.acceptTransact graphics stop bufsel).recordWrite s.commandFrame ws).enter (.acking graphics .start)

/-- The write of the frame and the whole ack token, of any content (R137, R140, R141). -/
theorem ack_run {s : State} {graphics : Bool} {stop : Byte} {bufsel : Bool} {ack : List Byte}
    {ws : List WriteAnswer} {rs rest : List ReadAnswer} (hs : s.Inv) (hts : s.env.turns = [])
    (hfits : s.regs.txlen.toNat ≤ s.cfg.txCap) (hw : s.env.writes = .ok s.commandFrame.length :: ws)
    (hstop : 0x0D ∉ ack) (hbytes : rs.filter (· ≠ ReadAnswer.empty) = answers ack)
    (hpaced : paced s.cfg.emptyLimit 0 rs = true)
    (hreads : s.env.reads = rs ++ ReadAnswer.byte 0x0D :: rest) :
    ∃ v, (s.sentTransact graphics stop bufsel ws).TokenRead true ack v ∧ v.env.reads = rest ∧
      (s.acceptTransact graphics stop bufsel).run (rs.length + 2) =
        .next (if s.cfg.tokenCap < ack.length then v.raiseErr .tokenOverflow
          else v.afterAck graphics) := by
  obtain ⟨fin, hplays, hfin⟩ := plays_acking ⟨stop, bufsel, graphics⟩ graphics
  have hsend := sendCommand_done (s := s.acceptTransact graphics stop bufsel) hfits hw
  have hstep : step (s.acceptTransact graphics stop bufsel) =
      .next (s.sentTransact graphics stop bufsel ws) :=
    (plays_sending _ graphics (s.acceptTransact graphics stop bufsel) () hts rfl rfl).trans
      (congrArg _ hsend)
  obtain ⟨v, hv, hrest, hrun⟩ := token_run (s := s.sentTransact graphics stop bufsel ws) hplays
    hs.cfgLegal hs.bufsCanonical hts rfl hstop hbytes hpaced hreads
  refine ⟨v, hv, hrest, (State.run_succ hstep _).trans (hrun.trans ?_)⟩
  have hcap : 1 ≤ v.cfg.tokenCap := by rw [hv.cfg]; exact Config.tokenCap_pos hs.cfgLegal
  rw [hfin v hcap]
  split <;> rename_i hlong
  · exact congrArg _ (if_pos hlong).symm
  · exact congrArg _ (if_neg hlong).symm

/-- The state `t` in which a transaction begun in `s` goes on after a successful ack token (R140 to
R142). -/
structure State.Acked (s : State) (l : Latch) (ack : List Byte) (ws : List WriteAnswer)
    (rest : List ReadAnswer) (t : State) : Prop where
  phase : t.phase = .following l.kind .start
  cfg : t.cfg = s.cfg
  rd : t.rd = s.rd
  latch : t.latch = l
  env : t.env = { s.env with reads := rest, writes := ws, sent := s.commandFrame :: s.env.sent }
  regs : t.regs = { s.regs with acklen := BitVec.ofNat 32 ack.length, strlen := 0, sum := 0, rxchk := 0 }
  status : t.status = { s.status with
    done := false, hostErr := false, err := .noError, chkValid := false, chkOk := false
    payTrunc := false, ackValid := true, ackOk := true }
  canonical : t.Canonical
  holds : HoldsFront s t .ackbuf ack s.cfg.tokenCap

/-- A transaction up to the end of an ack token that begins with 0x30 and fits ACKBUF. -/
theorem acked_run {s : State} {graphics : Bool} {stop : Byte} {bufsel : Bool} {ack : List Byte}
    {ws : List WriteAnswer} {rest : List ReadAnswer} (hs : s.Inv) (hts : s.env.turns = [])
    (hfits : s.regs.txlen.toNat ≤ s.cfg.txCap) (hw : s.env.writes = .ok s.commandFrame.length :: ws)
    (hlen : (0x30 :: ack).length ≤ s.cfg.tokenCap) (hstop : 0x0D ∉ ack)
    (hreads : s.env.reads = answers (0x30 :: ack) ++ ReadAnswer.byte 0x0D :: rest) :
    ∃ t, s.Acked ⟨stop, bufsel, graphics⟩ (0x30 :: ack) ws rest t ∧
      (s.acceptTransact graphics stop bufsel).run (ack.length + 3) = .next t := by
  obtain ⟨v, hv, hrest, hrun⟩ := ack_run (graphics := graphics) (stop := stop) (bufsel := bufsel)
    hs hts hfits hw (ack := 0x30 :: ack) (by simpa using hstop) (filter_answers _) (paced_answers _ _ _)
    hreads
  have hcap := Config.tokenCap_le hs.cfgLegal
  have hmin : min (0x30 :: ack).length (s.sentTransact graphics stop bufsel ws).cfg.tokenCap =
      (0x30 :: ack).length := Nat.min_eq_left hlen
  have hregs : v.regs = { s.regs with
      acklen := BitVec.ofNat 32 (0x30 :: ack).length, strlen := 0, sum := 0, rxchk := 0 } := by
    have hregs := hv.regs
    rw [hmin] at hregs
    exact hregs
  have hfirst : v.byteAt .ackbuf 0 = 0x30 := by
    refine (hv.holds.1 0).trans ?_
    rw [hmin]
    rfl
  have hpos : 1 ≤ v.regs.acklen.toNat := by
    simp only [hregs, List.length_cons, BitVec.toNat_ofNat]
    rw [List.length_cons] at hlen
    omega
  have hok : v.withAck.status.ackOk = true := by simp [State.withAck, hfirst, hpos]
  refine ⟨v.withAck.enter (.following graphics .start), ?_, ?_⟩
  · exact {
      phase := rfl
      cfg := hv.cfg
      rd := hv.rd
      latch := hv.latch
      env := by rw [State.enter_env]; exact hv.env.trans (by rw [hrest]; rfl)
      regs := hregs
      status := by
        rw [State.enter_status, State.withAck_status hok, hv.status]
        rfl
      canonical := hv.canonical
      holds := hv.holds }
  · rw [if_neg (Nat.not_lt.mpr hlen), State.afterAck, if_pos hok, answers_length] at hrun
    exact hrun

/-! ## TRANSACT.S (O17) -/

theorem plays_second (l : Latch) :
    Plays l (fun p => tokenStep p carriageReturn false) (fun p => .transactS (.second p))
      (fun t => .next t.finish) :=
  (plays_transactS l).within (call := .second) (fun _ _ => rfl) (fun _ => nofun)

/-- Settles O17: the ack token, and then the second string. -/
theorem simpleTransactionRun : Obligations.SimpleTransactionRun := by
  intro s stop bufsel ack text ws rest hs hp hts hfits hw hack htext hstopAck hstopText hreads
  obtain ⟨u, hu, hrunAck⟩ := acked_run (graphics := false) (stop := stop) (bufsel := bufsel)
    hs hts hfits hw hack hstopAck hreads
  have hcfg : u.cfg = s.cfg := hu.cfg
  obtain ⟨v, hv, hrest, hrun⟩ := token_run (s := u) (plays_second _) (hcfg ▸ hs.cfgLegal) hu.canonical
    (by rw [hu.env]; exact hts) hu.phase hstopText (filter_answers text) (paced_answers _ _ _)
    (rest := rest) (by rw [hu.env]; rfl)
  have hshort : ¬ u.cfg.tokenCap < text.length := by rw [hcfg]; omega
  have hmin : min text.length u.cfg.tokenCap = text.length := by omega
  rw [if_neg hshort, answers_length] at hrun
  have htotal : ack.length + text.length + 4 = ack.length + 3 + (text.length + 1) := by omega
  refine ⟨_, v.finish, exec_transact_idle hp hfits false stop bufsel, ?_, rfl, hv.cfg.trans hcfg,
    hv.rd.trans hu.rd, hv.latch.trans hu.latch, ?_, ?_, ?_, ?_, ?_, ?_⟩
  · rw [htotal]
    exact (State.run_add hrunAck _).trans hrun
  · rw [State.finish_env, hv.env, hu.env, hrest]
  · have hregs := hv.regs
    rw [hmin] at hregs
    rw [State.finish_regs, hregs]
    simp [hu.regs]
  · rw [State.finish_status, hv.status, hu.status]
  · intro i
    refine ((hv.holds.2 .ackbuf i (by decide)).trans (hu.holds.1 i)).trans ?_
    rw [Nat.min_eq_left hack]
  · intro i
    refine (hv.holds.1 i).trans ?_
    rw [hmin]
    exact if_congr Iff.rfl rfl (hu.holds.2 .strbuf i (by decide))
  · intro sp i hack hstr
    exact (hv.holds.2 sp i hstr).trans (hu.holds.2 sp i hack)

/-! ## The length text (R131) -/

/-- The value of the digits of a list, most significant first, after the value `v` of those before
(R131). -/
def digitsValue (v : Nat) (ds : List Byte) : Nat := ds.foldl (fun v d => 10 * v + (d.toNat - 0x30)) v

theorem le_digitsValue (v : Nat) (ds : List Byte) : v ≤ digitsValue v ds := by
  induction ds generalizing v with
  | nil => exact le_rfl
  | cons d ds ih => exact le_trans (by omega) (ih (10 * v + (d.toNat - 0x30)))

/-- The loop of `ParseDecimal` over the bytes `ds` of STRBUF (R131). -/
theorem State.parseDigits_eq {s : State} {ds : List Byte} {i v : Nat}
    (hfits : i + ds.length ≤ s.cfg.tokenCap)
    (hbytes : ∀ j, j < ds.length → s.byteAt .strbuf (i + j) = ds.getD j 0) (hv : v ≤ 2 ^ 32 - 1) :
    s.parseDigits ds.length i v =
      .ok (if (∀ d ∈ ds, 0x30 ≤ d.toNat ∧ d.toNat ≤ 0x39) ∧ digitsValue v ds ≤ 2 ^ 32 - 1 then
        some (digitsValue v ds) else none) := by
  induction ds generalizing i v with
  | nil => exact congrArg Except.ok (if_pos ⟨by simp, hv⟩).symm
  | cons d ds ih =>
    rw [List.length_cons] at hfits
    have hd : s.byteAt .strbuf i = d := hbytes 0 (by simp)
    have hi : i < Space.strbuf.size s.cfg := show i < s.cfg.tokenCap by omega
    simp only [List.length_cons, State.parseDigits, State.blockRead_of_lt hi, hd]
    by_cases hdigit : d.toNat < 0x30 ∨ 0x39 < d.toNat
    · rw [if_pos hdigit, if_neg]
      rintro ⟨hall, -⟩
      have := hall d (by simp)
      omega
    · rw [if_neg hdigit]
      by_cases hbig : 2 ^ 32 - 1 < 10 * v + (d.toNat - 0x30)
      · rw [if_pos hbig, if_neg]
        rintro ⟨-, hle⟩
        have := (le_digitsValue (10 * v + (d.toNat - 0x30)) ds).trans hle
        omega
      · have hrest : ∀ j, j < ds.length → s.byteAt .strbuf (i + 1 + j) = ds.getD j 0 := fun j hj => by
          have hj' := hbytes (j + 1) (by simpa using hj)
          rwa [List.getD_cons_succ, show i + (j + 1) = i + 1 + j by omega] at hj'
        rw [if_neg hbig, ih (by omega) hrest (by omega)]
        have hdig : 0x30 ≤ d.toNat ∧ d.toNat ≤ 0x39 := by omega
        refine congrArg Except.ok (if_congr (and_congr_left fun _ => ?_) rfl rfl)
        rw [List.forall_mem_cons, and_iff_right hdig]

theorem lengthValue_eq (ds : List Byte) : lengthValue ds =
    if ds ≠ [] ∧ (∀ d ∈ ds, 0x30 ≤ d.toNat ∧ d.toNat ≤ 0x39) ∧ digitsValue 0 ds ≤ 2 ^ 32 - 1 then
      some (digitsValue 0 ds) else none := by
  unfold lengthValue digitsValue
  by_cases hnil : ds = []
  · simp [hnil]
  by_cases hall : ∀ d ∈ ds, 0x30 ≤ d.toNat ∧ d.toNat ≤ 0x39
  · rw [if_neg (by tauto)]
    exact if_congr ⟨fun hle => ⟨hnil, hall, hle⟩, fun ⟨_, _, hle⟩ => hle⟩ rfl rfl
  · rw [if_pos (by tauto), if_neg (by tauto)]

/-- `ParseDecimal` gives the number the length text spells, or LENGTH_FORMAT (R131). -/
theorem State.parseDecimal_eq {s : State} {text : List Byte} (hfits : text.length ≤ s.cfg.tokenCap)
    (hlen : s.regs.strlen.toNat = text.length)
    (hbytes : ∀ j, j < text.length → s.byteAt .strbuf j = text.getD j 0) :
    s.parseDecimal = .ok (lengthValue text) := by
  unfold State.parseDecimal
  split
  · rename_i hzero
    have hnil : text = [] := by rw [← List.length_eq_zero_iff, ← hlen, hzero]; rfl
    rw [hnil]
    rfl
  · rename_i hne
    have hnil : text ≠ [] := by
      rintro rfl
      exact hne (BitVec.eq_of_toNat_eq hlen)
    rw [hlen, State.parseDigits_eq (by omega) (by simpa using hbytes) (by omega), lengthValue_eq]
    simp only [ne_eq, hnil, not_false_eq_true, true_and]

/-- A length text holds no comma, and its number is one of a register (R131). -/
theorem lengthValue_some {ds : List Byte} {n : Nat} (h : lengthValue ds = some n) :
    comma ∉ ds ∧ n < 2 ^ 32 := by
  rw [lengthValue_eq] at h
  split at h
  · rename_i hok
    obtain ⟨-, hall, hle⟩ := hok
    cases h
    refine ⟨fun hmem => ?_, by omega⟩
    exact absurd (hall comma hmem).1 (by decide)
  · cases h

/-! ## A whole frame -/

/-- The state `t` after the length text `digits` and the block `data` of a frame that began in `s`, with its
checksum byte `c` (R130). -/
structure State.FrameRead (s : State) (digits data : List Byte) (c : Byte) (rest : List ReadAnswer)
    (t : State) : Prop where
  cfg : t.cfg = s.cfg
  rd : t.rd = s.rd
  latch : t.latch = s.latch
  env : t.env = { s.env with reads := rest }
  regs : t.regs = { s.regs with
    strlen := BitVec.ofNat 32 digits.length
    blklen := BitVec.ofNat 32 data.length
    paylen := BitVec.ofNat 32 (min data.length s.cfg.payloadCap)
    sum := byteSum data, rxchk := c }
  status : t.status = { s.status with
    chkValid := true
    chkOk := decide (byteSum data = c)
    payTrunc := s.status.payTrunc || decide (s.cfg.payloadCap < data.length) }
  strbuf : ∀ i, t.byteAt .strbuf i = if i < digits.length then digits.getD i 0 else s.byteAt .strbuf i
  payload : ∀ i, t.byteAt .payload i =
    if i < min data.length s.cfg.payloadCap then data.getD i 0 else s.byteAt .payload i
  others : ∀ sp i, sp ≠ .strbuf → sp ≠ .payload → t.byteAt sp i = s.byteAt sp i

/-- A whole `ReadFrame` from its start (R130), in any operation: the length text and its comma, the parse,
and the block. -/
theorem frame_run {s : State} {digits data : List Byte} {c : Byte} {rest : List ReadAnswer}
    {into : FramePhase → Phase} {fin : State → Host.Outcome State Fault Refusal}
    (hplays : Plays s.latch frameStep into fin)
    (hc : s.cfg.Legal) (hwf : s.Canonical) (hts : s.env.turns = []) (hp : s.phase = into (.token .start))
    (hfits : digits.length ≤ s.cfg.tokenCap) (hvalue : lengthValue digits = some data.length)
    (hreads : s.env.reads =
      answers digits ++ ReadAnswer.byte 0x2C :: (answers data ++ ReadAnswer.byte c :: rest)) :
    ∃ t, s.FrameRead digits data c rest t ∧ s.run (digits.length + data.length + 3) = fin t := by
  obtain ⟨hcomma, hsmall⟩ := lengthValue_some hvalue
  obtain ⟨v, hv, hvrest, hvrun⟩ := token_run (s := s)
    (hplays.within (call := .token) (fun _ _ => rfl) (fun _ => nofun)) hc hwf hts hp hcomma
    (filter_answers digits) (paced_answers _ _ _) hreads
  have hmin : min digits.length s.cfg.tokenCap = digits.length := Nat.min_eq_left hfits
  rw [if_neg (Nat.not_lt.mpr hfits), answers_length] at hvrun
  -- `ParseDecimal`, in a step of its own
  have hstrlen : v.regs.strlen.toNat = digits.length := by
    have hlen := hv.tokenLen (Config.tokenCap_le hc)
    rwa [hmin] at hlen
  have hparse : (v.enter (into .parse)).parseDecimal = .ok (some data.length) := by
    rw [← hvalue]
    refine State.parseDecimal_eq (hv.cfg ▸ hfits) hstrlen fun j hj => ?_
    exact (hv.holds.1 j).trans (if_pos (by rwa [hmin]))
  have hvts : v.env.turns = [] := by rw [hv.env]; exact hts
  have hstep : step (v.enter (into .parse)) = .next
      (((v.enter (into .parse)).setBlklen (BitVec.ofNat 32 data.length)).enter
        (into (.block .start))) := by
    rw [hplays (v.enter (into .parse)) .parse hvts hv.latch rfl, frameStep, hparse]
    rfl
  -- the block
  have hplays' : Plays v.latch frameStep into fin := by rw [hv.latch]; exact hplays
  have hblklen : (BitVec.ofNat 32 data.length : Word).toNat = data.length := by
    rw [BitVec.toNat_ofNat, Nat.mod_eq_of_lt hsmall]
  obtain ⟨w, hw, hwrest, hwrun⟩ := block_run
    (s := ((v.enter (into .parse)).setBlklen (BitVec.ofNat 32 data.length)).enter
      (into (.block .start)))
    (hplays'.within (call := .block) (fun _ _ => rfl) (fun _ => nofun)) (hv.cfg ▸ hc) hv.canonical hvts
    rfl hblklen (filter_answers data) (paced_answers _ _ _) hvrest
  rw [answers_length] at hwrun
  have htotal : digits.length + data.length + 3 = digits.length + 1 + (data.length + 1 + 1) := by omega
  refine ⟨w.recordChecksum c, ?_, ?_⟩
  · exact {
      cfg := hw.cfg.trans hv.cfg
      rd := hw.rd.trans hv.rd
      latch := hw.latch.trans hv.latch
      env := by
        rw [State.recordChecksum_env, hw.env, hwrest, State.enter_env]
        exact congrArg (fun e : Environment => { e with reads := rest }) hv.env
      regs := by
        have hregs := hv.regs
        rw [hmin] at hregs
        rw [State.recordChecksum_regs, hw.regs, hw.sumacc]
        simp [hregs, hv.cfg]
      status := by
        rw [State.recordChecksum_status, hw.status, hw.sumacc]
        have hmod : data.length % 4294967296 = data.length := Nat.mod_eq_of_lt hsmall
        simp [hv.status, hv.cfg, hmod]
      strbuf := fun i => by
        refine ((hw.holds.2 .strbuf i (by decide)).trans (hv.holds.1 i)).trans ?_
        rw [hmin]
        rfl
      payload := fun i => by
        refine (hw.holds.1 i).trans ?_
        rw [← hv.cfg]
        exact if_congr Iff.rfl rfl (hv.holds.2 .payload i (by decide))
      others := fun sp i hstr hpay => (hw.holds.2 sp i hpay).trans (hv.holds.2 sp i hstr) }
  · rw [htotal]
    exact (State.run_add hvrun _).trans ((State.run_succ hstep _).trans hwrun)

/-! ## TRANSACT.G (O18) -/

theorem plays_frame (l : Latch) :
    Plays l frameStep (fun p => .transactG (.frame p)) (fun t => .next t.finish) :=
  (plays_transactG l).within (call := .frame) (fun _ _ => rfl) (fun _ => nofun)

/-- Settles O18: the ack token, and then a frame. -/
theorem graphicsTransactionRun : Obligations.GraphicsTransactionRun := by
  intro s stop bufsel ack digits data c ws rest hs hp hts hfits hw hack hdigits hstop hvalue hreads
  obtain ⟨u, hu, hrunAck⟩ := acked_run (graphics := true) (stop := stop) (bufsel := bufsel)
    hs hts hfits hw hack hstop hreads
  obtain ⟨v, hv, hrun⟩ := frame_run (s := u) (plays_frame _) (hu.cfg ▸ hs.cfgLegal) hu.canonical
    (by rw [hu.env]; exact hts) hu.phase (hu.cfg ▸ hdigits) hvalue (c := c) (rest := rest)
    (by rw [hu.env])
  have htotal : ack.length + digits.length + data.length + 6 =
      ack.length + 3 + (digits.length + data.length + 3) := by omega
  refine ⟨_, v.finish, exec_transact_idle hp hfits true stop bufsel, ?_, rfl, hv.cfg.trans hu.cfg,
    hv.rd.trans hu.rd, hv.latch.trans hu.latch, ?_, ?_, ?_, fun i => ?_, fun i => ?_, fun i => ?_,
    fun i => ?_, fun i => ?_⟩
  · rw [htotal]
    exact (State.run_add hrunAck _).trans hrun
  · rw [State.finish_env, hv.env, hu.env]
  · rw [State.finish_regs, hv.regs, hu.regs, hu.cfg]
    rfl
  · rw [State.finish_status, hv.status, hu.status, hu.cfg]
    rfl
  · refine ((hv.others .ackbuf i (by decide) (by decide)).trans (hu.holds.1 i)).trans ?_
    rw [Nat.min_eq_left hack]
  · exact (hv.strbuf i).trans (if_congr Iff.rfl rfl (hu.holds.2 .strbuf i (by decide)))
  · refine (hv.payload i).trans ?_
    rw [hu.cfg]
    exact if_congr Iff.rfl rfl (hu.holds.2 .payload i (by decide))
  · exact (hv.others .txbuf i (by decide) (by decide)).trans (hu.holds.2 .txbuf i (by decide))
  · exact (hv.others .bitmap i (by decide) (by decide)).trans (hu.holds.2 .bitmap i (by decide))

/-! ## Pixels -/

/-- One bit of a byte is set, and the others are as before. -/
theorem getLsbD_setBit (b : Byte) (v : Bool) {j k : Nat} (hj : j < 8) (hk : k < 8) :
    (setBit b k v).getLsbD j = if j = k then v else b.getLsbD j := by
  have hbit : (1#8 <<< k).getLsbD j = decide (j = k) := by
    rw [BitVec.getLsbD_shiftLeft, BitVec.getLsbD_one]
    by_cases hjk : j = k
    · simp [hjk, hk]
    · by_cases hlt : j < k
      · simp [hlt, hjk]
      · have hne : j - k ≠ 0 := by omega
        simp [hjk, hne]
  cases v
  · simp only [setBit, Bool.false_eq_true, if_false, BitVec.getLsbD_and, BitVec.getLsbD_not, hbit]
    by_cases hjk : j = k <;> simp [hjk, hj]
  · simp only [setBit, if_true, BitVec.getLsbD_or, hbit]
    by_cases hjk : j = k <;> simp [hjk]

/-- Two pixels inside the bitmap share a byte when they share a row and a group of 8 columns (R64). -/
theorem pixelByte_eq_iff {c : Config} (hc : c.Legal) {x y x' y' : Nat} (hx : x < c.w) (hx' : x' < c.w) :
    pixelByte c x' y' = pixelByte c x y ↔ y' = y ∧ x' / 8 = x / 8 := by
  obtain ⟨⟨-, -, hw⟩, -⟩ := hc
  have hcol : x / 8 < c.w / 8 := by omega
  have hcol' : x' / 8 < c.w / 8 := by omega
  refine ⟨fun h => ?_, fun ⟨hy, hxx⟩ => by rw [pixelByte, pixelByte, hy, hxx]⟩
  have hrow : ∀ a b, b < c.w / 8 → (a * (c.w / 8) + b) / (c.w / 8) = a := fun a b hb => by
    rw [Nat.mul_comm, Nat.mul_add_div (by omega), Nat.div_eq_of_lt hb, Nat.add_zero]
  have hyy : y' = y := by
    rw [← hrow y' _ hcol', ← hrow y _ hcol]
    exact congrArg (· / (c.w / 8)) h
  subst hyy
  exact ⟨rfl, Nat.add_left_cancel h⟩

/-- `PixWrite` gives one pixel the value and leaves every other as it is (R64, R166). -/
theorem pixel_pixWrite {c : Config} (hc : c.Legal) {m m' : Memory} (hm : Memory.wf m = true) {x y : Nat}
    {v : Bool} (h : pixWrite c x y v m = .ok m') {x' y' : Nat} (hx' : x' < c.w) (hy' : y' < c.h) :
    pixel c m' x' y' = if x' = x ∧ y' = y then v else pixel c m x' y' := by
  rcases pixWrite_ok h with ⟨hx, hy, -, rfl⟩ | ⟨hout, rfl⟩
  · by_cases hbyte : pixelByte c x' y' = pixelByte c x y
    · obtain ⟨rfl, hcol⟩ := (pixelByte_eq_iff hc hx hx').mp hbyte
      have hsame : 7 - x' % 8 = 7 - x % 8 ↔ x' = x := by omega
      rw [pixel, hbyte, Memory.read_write_same hm, getLsbD_setBit _ _ (by omega) (by omega), pixel, hbyte]
      simp only [hsame, and_true]
    · have hne : ¬ (x' = x ∧ y' = y) := by
        rintro ⟨rfl, rfl⟩
        exact hbyte rfl
      rw [pixel, Memory.read_write_other m hbyte, if_neg hne, pixel]
  · rw [if_neg]
    rintro ⟨rfl, rfl⟩
    exact hout ⟨hx', hy'⟩

/-- The rows of `PaintColumn` (R165): row `y + i` of column `x` from bit `d[7 - i]`. -/
theorem pixel_paintRows {c : Config} (hc : c.Legal) {m m' : Memory} (hm : Space.bitmap.Holds c m)
    {x y : Nat} {d : Byte} {is : List Nat} (h : paintRows c x y d is m = .ok m') {x' y' : Nat}
    (hx' : x' < c.w) (hy' : y' < c.h) :
    pixel c m' x' y' =
      if x' = x ∧ y ≤ y' ∧ y' - y ∈ is then d.getLsbD (7 - (y' - y)) else pixel c m x' y' := by
  induction is generalizing m with
  | nil => cases h; simp
  | cons i is ih =>
    simp only [paintRows] at h
    split at h
    · cases h
    · rename_i m1 hw
      have hpix := pixel_pixWrite hc hm.1 hw hx' hy'
      rw [ih (hm.pixWrite hw) h, hpix]
      by_cases hcol : x' = x ∧ y ≤ y'
      · by_cases hrow : y' - y = i
        · have hat : y' = y + i := by omega
          simp [hcol.1, hat]
        · have hat : y' ≠ y + i := by omega
          simp [hcol, hrow, hat]
      · have hat : ¬ (x' = x ∧ y' = y + i) := by omega
        rw [if_neg (by tauto), if_neg hat, if_neg (by tauto)]

theorem pixel_paintColumn {c : Config} (hc : c.Legal) {m m' : Memory} (hm : Space.bitmap.Holds c m)
    {x y : Nat} {d : Byte} (h : paintColumn c x y d m = .ok m') {x' y' : Nat}
    (hx' : x' < c.w) (hy' : y' < c.h) :
    pixel c m' x' y' =
      if x' = x ∧ y ≤ y' ∧ y' < y + 8 then d.getLsbD (7 - (y' - y)) else pixel c m x' y' := by
  have hrow : (y ≤ y' ∧ y' - y ∈ [0, 1, 2, 3, 4, 5, 6, 7]) ↔ y ≤ y' ∧ y' < y + 8 := by
    simp only [List.mem_cons, List.not_mem_nil, or_false]
    omega
  rw [pixel_paintRows hc hm h hx' hy']
  simp only [hrow]

/-- The columns of a bit-image command, from column `x` on (R168, R169). -/
theorem pixel_paintColumns {c : Config} (hc : c.Legal) {m m' : Memory} (hm : Space.bitmap.Holds c m)
    {x y : Nat} {ds : List Byte} (h : paintColumns c y x ds m = .ok m') {x' y' : Nat}
    (hx' : x' < c.w) (hy' : y' < c.h) :
    pixel c m' x' y' =
      if (x ≤ x' ∧ x' < x + ds.length) ∧ y ≤ y' ∧ y' < y + 8 then
        (ds.getD (x' - x) 0).getLsbD (7 - (y' - y)) else pixel c m x' y' := by
  induction ds generalizing x m with
  | nil =>
    cases h
    rw [if_neg]
    rintro ⟨⟨hle, hlt⟩, -⟩
    simp at hlt
    omega
  | cons d ds ih =>
    simp only [paintColumns] at h
    split at h
    · cases h
    · rename_i m1 hcol
      have hm1 : Space.bitmap.Holds c m1 := paintRows_keeps (fun _ _ _ _ hm hw => hm.pixWrite hw) hm hcol
      rw [ih hm1 h, pixel_paintColumn hc hm hcol hx' hy', List.length_cons]
      by_cases hrow : y ≤ y' ∧ y' < y + 8
      · by_cases hat : x' = x
        · simp [hat, hrow]
        · by_cases hin : x ≤ x' ∧ x' < x + (ds.length + 1)
          · have hin' : x + 1 ≤ x' ∧ x' < x + 1 + ds.length := by omega
            have hidx : x' - x = x' - (x + 1) + 1 := by omega
            rw [if_pos ⟨hin', hrow⟩, if_pos ⟨hin, hrow⟩, hidx, List.getD_cons_succ]
          · have hin' : ¬ (x + 1 ≤ x' ∧ x' < x + 1 + ds.length) := by omega
            rw [if_neg (by tauto), if_neg (by tauto), if_neg (by tauto)]
      · rw [if_neg (by tauto), if_neg (by tauto), if_neg (by tauto)]

theorem paintColumns_ok {c : Config} (hc : c.Legal) (y x : Nat) (ds : List Byte) (m : Memory) :
    ∃ m', paintColumns c y x ds m = .ok m' := by
  cases h : paintColumns c y x ds m with
  | ok m' => exact ⟨m', rfl⟩
  | error f => exact absurd h (paintColumns_no_fault hc _ _ _ _ _)

/-! ## One command of a listing -/

/-- The columns a stream command paints: a bit-image command's data, no other's (R163, R167, R168, R173 to
R176). -/
def columnsOf (i : Instr) : List Byte := (strips [i]).headD []

/-- Everything a whole stream command does besides moving the decoder on: it paints its columns at the
cursor, and YCUR and UNREC count it (R168 to R176). -/
structure State.Draws (s : State) (i : Instr) (t : State) : Prop where
  painted : paintColumns s.cfg s.regs.ycur.toNat 0 (columnsOf i) s.bufs.bitmap = .ok t.bufs.bitmap
  bufs : t.bufs = { s.bufs with bitmap := t.bufs.bitmap }
  regs : t.regs = { s.regs with
    ycur := s.regs.ycur + BitVec.ofNat 32 (8 * (strips [i]).length)
    unrec := s.regs.unrec + BitVec.ofNat 32 (unrecCount [i]) }
  env : t.env = s.env
  fr : t.fr = s.fr
  text : s.rd.pstate = .text → t.rd.pstate = .text

theorem exec_stream_draws {i : Instr} (hi : i.isCommand = false) {s : State} (hc : s.cfg.Legal) :
    ∃ t, exec i s = .next t ∧ s.Draws i t := by
  cases i with
  | escBitimg mode nx data =>
    obtain ⟨m, hm⟩ := paintColumns_ok hc s.regs.ycur.toNat 0 data s.bufs.bitmap
    have hexec : exec (.escBitimg mode nx data) s = .next
        ((((s.setBuf .bitmap m).setNl (nx.extractLsb' 0 8)).setColumns nx nx).advanceRow.consume
          (5 + nx.toNat)) := by
      simp only [exec, execEscBitimg, hm]
    exact ⟨_, hexec, hm, rfl, by simp [strips, unrecCount], rfl, rfl, fun _ => rfl⟩
  | escUnrec sel => exact ⟨_, rfl, rfl, rfl, by simp [strips, unrecCount], rfl, rfl, fun _ => rfl⟩
  | escReset | escLsp | escFam | escPitch =>
    exact ⟨_, rfl, rfl, rfl, by simp [strips, unrecCount], rfl, rfl, fun _ => rfl⟩
  | txt b => exact ⟨_, rfl, rfl, rfl, by simp [strips, unrecCount], rfl, rfl, id⟩
  | nop | readUntil | readBlock | readFrame | send | transactS | transactG | decode | badOp7
  | badOp8F | badReserved => cases hi

/-! ## The listing -/

theorem assemble_append (c : Config) (is js : List Instr) :
    assemble c (is ++ js) = assemble c is ++ assemble c js := by
  induction is with
  | nil => rfl
  | cons i is ih => rw [List.cons_append, assemble, assemble, ih, List.append_assoc]

theorem strips_append (is js : List Instr) : strips (is ++ js) = strips is ++ strips js :=
  List.filterMap_append

theorem unrecCount_append (is js : List Instr) : unrecCount (is ++ js) = unrecCount is + unrecCount js := by
  rw [unrecCount, List.filter_append, List.length_append]
  rfl

/-- A bit-image command takes five bytes at least (R99). -/
theorem strips_length_le (c : Config) (is : List Instr) :
    5 * (strips is).length ≤ (assemble c is).length := by
  induction is with
  | nil => exact le_rfl
  | cons i is ih =>
    rw [← List.singleton_append, strips_append, assemble_append, List.length_append, List.length_append]
    have hone : 5 * (strips [i]).length ≤ (assemble c [i]).length := by
      cases i <;> simp [strips, assemble, encode, Code.stream]
    omega

/-- The pixel at (x, y) of the picture of a listing: bit `7 - y mod 8` of byte `x` of its strip `y / 8`. -/
def picture (is : List Instr) (x y : Nat) : Bool :=
  (((strips is).getD (y / 8) []).getD x 0).getLsbD (7 - y % 8)

/-- One more command adds its columns below the strips before it. -/
theorem picture_append_singleton (is : List Instr) (i : Instr) (x y : Nat) :
    picture (is ++ [i]) x y =
      if x < (columnsOf i).length ∧ 8 * (strips is).length ≤ y ∧ y < 8 * (strips is).length + 8 then
        ((columnsOf i).getD x 0).getLsbD (7 - (y - 8 * (strips is).length))
      else picture is x y := by
  have hcases : strips [i] = [] ∨ ∃ d, strips [i] = [d] := by cases i <;> simp [strips]
  rcases hcases with hnone | ⟨d, hd⟩
  · simp [picture, columnsOf, strips_append, hnone]
  · have hcols : columnsOf i = d := by simp [columnsOf, hd]
    have hrow : (8 * (strips is).length ≤ y ∧ y < 8 * (strips is).length + 8) ↔
        y / 8 = (strips is).length := by omega
    simp only [picture, strips_append, hd, hcols, hrow]
    by_cases hy : y / 8 = (strips is).length
    · have hbit : y - 8 * (strips is).length = y % 8 := by omega
      by_cases hx : x < d.length
      · simp [hy, hx, hbit]
      · simp [hy, hx]
    · rw [if_neg (by tauto)]
      by_cases hlt : y / 8 < (strips is).length
      · rw [List.getD_append _ _ _ _ hlt]
      · rw [List.getD_append_right _ _ _ _ (by omega), List.getD_eq_default [d] _ (by simp; omega),
          List.getD_eq_default (strips is) _ (by omega)]

/-- `t` is the state in DECODE's loop after the commands `seen` of the payload, from the loop's first state
`s`. -/
structure State.Drawn (s : State) (seen : List Instr) (t : State) : Prop where
  inv : t.Inv
  phase : t.phase = .decode .loop
  text : t.rd.pstate = .text
  pos : t.rd.pos.toNat = (assemble s.cfg seen).length
  cfg : t.cfg = s.cfg
  status : t.status = s.status
  latch : t.latch = s.latch
  env : t.env = s.env
  fr : t.fr = s.fr
  bufs : t.bufs = { s.bufs with bitmap := t.bufs.bitmap }
  regs : t.regs = { s.regs with
    ycur := BitVec.ofNat 32 (8 * (strips seen).length)
    unrec := BitVec.ofNat 32 (unrecCount seen) }
  pixels : ∀ x y, x < s.cfg.w → y < s.cfg.h → pixel s.cfg t.bufs.bitmap x y = picture seen x y

/-- The payload of `s` is the listing `is`. -/
structure State.HoldsListing (s : State) (is : List Instr) : Prop where
  wf : ∀ i ∈ is, i.isCommand = false ∧ i.wf s.cfg = true
  length : s.regs.paylen.toNat = (assemble s.cfg is).length
  bytes : ∀ j, j < s.regs.paylen.toNat → s.byteAt .payload j = (assemble s.cfg is).getD j 0

/-- Between two commands of the listing the next one stands at POS. -/
theorem State.Drawn.streamAt {s t : State} {seen more : List Instr} {i : Instr} (h : s.Drawn seen t)
    (hs : s.HoldsListing (seen ++ i :: more)) : t.StreamAt (encode t.cfg i).stream := by
  have hlist : assemble s.cfg (seen ++ i :: more) =
      assemble s.cfg seen ++ ((encode s.cfg i).stream ++ assemble s.cfg more) := assemble_append ..
  have hlen := congrArg List.length hlist
  rw [List.length_append, List.length_append, ← hs.length] at hlen
  have hpaylen : t.regs.paylen = s.regs.paylen := by rw [h.regs]
  rw [h.cfg]
  refine ⟨by rw [hpaylen, h.pos]; omega, fun j hj => ?_⟩
  have hbyte : ∀ k, t.byteAt .payload k = s.byteAt .payload k := fun k => by
    rw [State.byteAt, h.bufs]
    rfl
  rw [hbyte, h.pos, hs.bytes _ (by omega), hlist, List.getD_append_right _ _ _ _ (by omega),
    Nat.add_sub_cancel_left, List.getD_append _ _ _ _ hj]

/-- The step of the next command of the listing. -/
theorem State.Drawn.exists_step {s t : State} {seen more : List Instr} {i : Instr} (h : s.Drawn seen t)
    (hts : s.env.turns = []) (hs : s.HoldsListing (seen ++ i :: more)) :
    ∃ u, step t = .next u ∧ s.Drawn (seen ++ [i]) u := by
  obtain ⟨hi, hwf⟩ := hs.wf i (by simp)
  have htts : t.env.turns = [] := by rw [h.env]; exact hts
  have hat := h.streamAt hs
  obtain ⟨u, hexec, hdraws⟩ := exec_stream_draws hi h.inv.cfgLegal
  have hstep : step t = .next u := by
    rw [stepRunsTheStreamCommand t i [] h.inv (.inl ⟨htts, rfl⟩) h.phase h.text hi (h.cfg ▸ hwf) hat,
      State.setTurns_eq_self htts, hexec]
  refine ⟨u, hstep, ?_⟩
  have hcons := exec_stream_consumes hi hexec
  have hcap := h.inv.paylen_le h.phase
  have hlen := encode_stream_length hi hwf
  have hone : (assemble s.cfg [i]).length = i.length := by
    rw [assemble, List.length_append, hlen]
    rfl
  have hfits := hat.1
  rw [h.cfg, hlen, h.pos] at hfits
  have hstrips := strips_length_le s.cfg seen
  have hycur : t.regs.ycur.toNat = 8 * (strips seen).length := by
    rw [h.regs]
    simp only [BitVec.toNat_ofNat]
    omega
  exact {
    inv := everyStepKeepsTheInvariant t u h.inv hstep
    phase := hcons.phase.trans h.phase
    text := hdraws.text h.text
    pos := by
      rw [hcons.pos, BitVec.toNat_add, h.pos, assemble_append, List.length_append, hone,
        BitVec.toNat_ofNat]
      omega
    cfg := hcons.cfg.trans h.cfg
    status := hcons.status.trans h.status
    latch := hcons.latch.trans h.latch
    env := hdraws.env.trans h.env
    fr := hdraws.fr.trans h.fr
    bufs := by
      rw [hdraws.bufs]
      exact congrArg (fun b : Buffers => { b with bitmap := u.bufs.bitmap }) h.bufs
    regs := by
      rw [hdraws.regs, h.regs, strips_append, unrecCount_append, List.length_append, Nat.mul_add,
        BitVec.ofNat_add, BitVec.ofNat_add]
    pixels := fun x y hx hy => by
      have hpainted := hdraws.painted
      rw [h.cfg] at hpainted
      have hholds : Space.bitmap.Holds s.cfg t.bufs.bitmap :=
        h.cfg ▸ ⟨h.inv.bufsCanonical .bitmap, h.inv.bufsWithin .bitmap⟩
      rw [pixel_paintColumns (h.cfg ▸ h.inv.cfgLegal) hholds hpainted hx hy, hycur, h.pixels x y hx hy,
        picture_append_singleton]
      simp }

/-- A step for each command of the listing. -/
theorem State.Drawn.run {s t : State} {seen more : List Instr} (h : s.Drawn seen t)
    (hts : s.env.turns = []) (hs : s.HoldsListing (seen ++ more)) :
    ∃ u, t.run more.length = .next u ∧ s.Drawn (seen ++ more) u := by
  induction more generalizing seen t with
  | nil => exact ⟨t, rfl, by rwa [List.append_nil]⟩
  | cons i more ih =>
    obtain ⟨u, hstep, hu⟩ := h.exists_step hts hs
    rw [List.append_cons] at hs ⊢
    obtain ⟨v, hrun, hv⟩ := ih hu hs
    exact ⟨v, (State.run_succ hstep _).trans hrun, hv⟩

/-! ## DECODE over a listing (O33) -/

/-- DECODE's first step, on a block left alone (R160, R161). -/
theorem step_decodeClear {s : State} (hts : s.env.turns = []) (hp : s.phase = .decode .clear) :
    step s = .next (s.startDecode.enter (.decode .loop)) := by
  rw [step_of_exhausted hts (by simp only [State.nextInstr, hp]; rfl)]
  simp only [exec, execDecode, hp]

/-- DECODE's last step, on a block left alone: POS has come to PAYLEN (R160, R178). -/
theorem step_decodeEnd {s : State} (hts : s.env.turns = []) (hp : s.phase = .decode .loop)
    (hend : s.regs.paylen.toNat ≤ s.rd.pos.toNat) : step s = .next s.endDecode.finish := by
  rw [step_of_exhausted hts (State.nextInstr_decodeLoop hp (State.nextCommand_at_end hend))]
  simp only [State.decodeInstr, exec, execDecode, hp, if_neg (Nat.not_lt.mpr hend)]

/-- `EndDecode` between two commands (R178). -/
theorem State.endDecode_text {s : State} (h : s.rd.pstate = .text) :
    s.endDecode = { s with regs := { s.regs with decpos := s.regs.paylen } } := if_pos h

/-- DECODE's loop begins with no command drawn, on the counters acceptance cleared (R89, R161). -/
theorem State.drawn_nil {s : State} (hclear : s.regs.ycur = 0 ∧ s.regs.unrec = 0)
    (hinv : (s.startDecode.enter (.decode .loop)).Inv) :
    (s.startDecode.enter (.decode .loop)).Drawn [] (s.startDecode.enter (.decode .loop)) where
  inv := hinv
  phase := rfl
  text := rfl
  pos := rfl
  cfg := rfl
  status := rfl
  latch := rfl
  env := rfl
  fr := rfl
  bufs := rfl
  regs := by
    have hzero : ∀ r : HostRegs, r.ycur = 0 ∧ r.unrec = 0 → r = { r with ycur := 0, unrec := 0 } := by
      rintro ⟨⟩ ⟨rfl, rfl⟩
      rfl
    exact hzero s.regs hclear
  pixels x y _ _ := by simp [pixel, picture, strips]

/-- Settles O33: the clear, a step for each command, and the end. -/
theorem listingDecodesToItsPicture : Obligations.ListingDecodesToItsPicture := by
  intro s stop bufsel kind is hs hp hts hwf hlen hfits hbytes
  have hexec := exec_decode_idle hp stop bufsel kind hfits
  have hinv := (exec_command_moves rfl hexec).inv hs
  have hclear := step_decodeClear
    (s := s.clearDecodeResults.accept ⟨stop, bufsel, kind⟩ (.decode .clear)) hts rfl
  obtain ⟨t, hrun, ht⟩ := (State.drawn_nil ⟨rfl, rfl⟩
    (everyStepKeepsTheInvariant _ _ hinv hclear)).run hts ⟨hwf, hlen, hbytes⟩
  have htts : t.env.turns = [] := by rw [ht.env]; exact hts
  have hpaylen : t.regs.paylen = s.regs.paylen := by rw [ht.regs]; rfl
  have hend : t.regs.paylen.toNat ≤ t.rd.pos.toNat := by
    rw [hpaylen, ht.pos, hlen]
    exact le_rfl
  have hlast := step_decodeEnd htts ht.phase hend
  rw [State.endDecode_text ht.text] at hlast
  refine ⟨_, _, hexec, (State.run_succ hclear (is.length + 1)).trans ((State.run_add hrun 1).trans
    ((State.run_one t).trans hlast)), ht.pixels, rfl, ht.cfg, ht.env, ht.fr, ht.latch, ?_, ?_, ht.bufs⟩
  · rw [State.finish_status, ht.status]
    rfl
  · rw [State.finish_regs, hpaylen, ht.regs]
    rfl

end Sys2Proof.Machine

/-! PROOFS. The statements of spec/40_frame_reader.md: the runs of the frame reader's operations, the
ways in which they end early, and what every read does with a failure, an empty answer and a byte. -/

namespace Sys2Proof.Machine

/-! ## NOP (O12) -/

/-- Settles O12: the step after acceptance is `finish()`. -/
theorem nopRunEnds : Obligations.NopRunEnds := by
  intro s stop bufsel kind hp hts
  have hstep : step (s.accept ⟨stop, bufsel, kind⟩ .nop) =
      .next (s.accept ⟨stop, bufsel, kind⟩ .nop).finish :=
    step_of_exhausted (i := .nop stop bufsel kind) hts rfl
  refine ⟨_, exec_nop_idle hp stop bufsel kind, rfl, (State.run_one _).trans (hstep.trans ?_)⟩
  rw [hp]
  rfl

/-! ## SEND (O16) -/

theorem plays_send (l : Latch) :
    Plays l (fun _ : Unit => sendCommand) (fun _ => .send) (fun t => .next t.finish) := by
  intro s _ hts _ hp
  rw [step_of_exhausted hts (by simp only [State.nextInstr, hp]; rfl)]
  simp only [exec, execSend, hp, conclude_eq_resolve]

/-- Settles O16: the step after acceptance is the write. -/
theorem sendRunWritesTheFrame : Obligations.SendRunWritesTheFrame := by
  intro s stop bufsel kind a ws hp hts hfits hw
  refine ⟨_, exec_send_idle hp stop bufsel kind hfits, rfl, ?_⟩
  have hstep := plays_send _ (s.accept ⟨stop, bufsel, kind⟩ .send) () hts rfl rfl
  refine (State.run_one _).trans (hstep.trans ?_)
  by_cases ha : a = .ok s.commandFrame.length
  · have hsend := sendCommand_done (s := s.accept ⟨stop, bufsel, kind⟩ .send) hfits (ha ▸ hw)
    refine (congrArg _ hsend).trans ?_
    rw [if_pos ha, hp]
    rfl
  · have hsend := sendCommand_failed (s := s.accept ⟨stop, bufsel, kind⟩ .send) hfits hw ha
    refine (congrArg _ hsend).trans ?_
    rw [if_neg ha, hp]
    rfl

/-! ## READ_UNTIL (O13) -/

theorem plays_readUntil (l : Latch) :
    Plays l (fun p => tokenStep p l.stop l.bufsel) Phase.readUntil (fun t => .next t.finish) := by
  rintro s p hts rfl hp
  rw [step_of_exhausted hts (by simp only [State.nextInstr, hp]; rfl)]
  simp only [exec, execReadUntil, hp, conclude_eq_resolve]

/-- A return is an end with the ERR that acceptance made 0 (R88, R216). -/
theorem State.finish_eq_raiseErr {s : State} (h : s.status.err = .noError) :
    s.finish = s.raiseErr .noError := by
  rw [State.raiseErr, ← h]
  rfl

/-- Settles O13: acceptance, and one step for each answer. -/
theorem delimitedReadRun : Obligations.DelimitedReadRun := by
  intro s stop ack kind token rs rest hs hp hts hstop hbytes hpaced hreads
  obtain ⟨v, hv, hrest, hrun⟩ := token_run (ack := ack)
    (s := s.accept ⟨stop, ack, kind⟩ (.readUntil .start)) (plays_readUntil _)
    hs.cfgLegal hs.bufsCanonical hts rfl hstop hbytes hpaced hreads
  have hend : (s.accept ⟨stop, ack, kind⟩ (.readUntil .start)).run (rs.length + 1) = .next
      (v.raiseErr (if token.length ≤ s.cfg.tokenCap then .noError else .tokenOverflow)) := by
    rw [hrun, State.finish_eq_raiseErr (by rw [hv.status]; rfl)]
    by_cases hlen : token.length ≤ s.cfg.tokenCap
    · rw [if_pos hlen]
      exact if_neg (Nat.not_lt.mpr hlen)
    · rw [if_neg hlen]
      exact if_pos (Nat.not_le.mp hlen)
  refine ⟨_, _, _, exec_readUntil_idle hp stop ack kind, hend, rfl, hv.cfg, hv.rd, hv.latch, ?_, ?_, ?_,
    hv.holds⟩
  · rw [State.raiseErr_env, hv.env, hrest]
    rfl
  · rw [State.raiseErr_regs, hv.regs]
    cases ack <;> rfl
  · rw [State.raiseErr_status, hv.status]
    rfl

/-! ## READ_FRAME (O15, O58) -/

theorem plays_readFrame (l : Latch) :
    Plays l frameStep Phase.readFrame (fun t => .next t.finish) := by
  intro s p hts _ hp
  rw [step_of_exhausted hts (by simp only [State.nextInstr, hp]; rfl)]
  simp only [exec, execReadFrame, hp, conclude_eq_resolve]

/-- Settles O15: acceptance, and the whole frame. -/
theorem lengthPrefixedFrameRun : Obligations.LengthPrefixedFrameRun := by
  intro s stop bufsel kind digits data c rest hs hp hts hdigits hvalue hreads
  obtain ⟨v, hv, hrun⟩ := frame_run
    (s := s.clearBlockResults.accept ⟨stop, bufsel, kind⟩ (.readFrame (.token .start)))
    (plays_readFrame _) hs.cfgLegal hs.bufsCanonical hts rfl hdigits hvalue hreads
  refine ⟨_, v.finish, exec_readFrame_idle hp stop bufsel kind, hrun, rfl, hv.cfg, hv.rd, hv.latch,
    hv.env, ?_, ?_, hv.strbuf, hv.payload, hv.others⟩
  · rw [State.finish_regs, hv.regs]
    rfl
  · rw [State.finish_status, hv.status]
    rfl

/-- The length text inside a frame, in any operation: its return goes on with the parse. -/
theorem Plays.lengthText {l : Latch} {into : FramePhase → Phase}
    {fin : State → Host.Outcome State Fault Refusal} (h : Plays l frameStep into fin) :
    Plays l (fun p => tokenStep p comma false) (fun p => into (.token p))
      (fun t => .next (t.enter (into .parse))) :=
  h.within (call := .token) (fun _ _ => rfl) (fun _ => nofun)

/-- The block inside a frame, in any operation: its return is the frame's. -/
theorem Plays.frameBlock {l : Latch} {into : FramePhase → Phase}
    {fin : State → Host.Outcome State Fault Refusal} (h : Plays l frameStep into fin) :
    Plays l blockStep (fun p => into (.block p)) fin :=
  h.within (call := .block) (fun _ _ => rfl) (fun _ => nofun)

/-- A token that fits has its whole length in the length register (R118). -/
theorem State.TokenRead.regs_of_le {s t : State} {ack : Bool} {seen : List Byte}
    (h : s.TokenRead ack seen t) (hle : seen.length ≤ s.cfg.tokenCap) :
    t.regs = (s.setTokenLen ack (BitVec.ofNat 32 seen.length)).regs := by
  rw [h.regs, Nat.min_eq_left hle]

/-- A token that overflows has TOKEN_CAP in the length register (R119). -/
theorem State.TokenRead.regs_of_lt {s t : State} {ack : Bool} {seen : List Byte}
    (h : s.TokenRead ack seen t) (hlt : s.cfg.tokenCap < seen.length) :
    t.regs = (s.setTokenLen ack (BitVec.ofNat 32 s.cfg.tokenCap)).regs := by
  rw [h.regs, Nat.min_eq_right hlt.le]

/-- Settles O58: the length text's token overflows. -/
theorem lengthTextOverflowEndsTheFrame : Obligations.LengthTextOverflowEndsTheFrame := by
  intro s stop bufsel kind text rest hs hp hts hlong hcomma hreads
  obtain ⟨v, hv, hrest, hrun⟩ := token_run
    (s := s.clearBlockResults.accept ⟨stop, bufsel, kind⟩ (.readFrame (.token .start)))
    (plays_readFrame _).lengthText hs.cfgLegal hs.bufsCanonical hts rfl hcomma (filter_answers text)
    (paced_answers _ _ _) hreads
  refine ⟨_, _, _, exec_readFrame_idle hp stop bufsel kind, hrun.trans (if_pos hlong), rfl, hv.cfg,
    hv.rd, hv.latch, ?_, hv.regs_of_lt hlong, ?_, hv.holds⟩
  · rw [State.raiseErr_env, hv.env, hrest]
    rfl
  · rw [State.raiseErr_status, hv.status]
    rfl

/-! ## The length text (O20) -/

/-- `ParseDecimal` and the write of BLKLEN, in a step of their own (R131; notes/assumptions/11.md). -/
theorem frameStep_parse {s : State} {text : List Byte} (hfits : text.length ≤ s.cfg.tokenCap)
    (hlen : s.regs.strlen.toNat = text.length)
    (hbytes : ∀ j, j < text.length → s.byteAt .strbuf j = text.getD j 0) :
    frameStep .parse s = .ok ((lengthValue text).elim (.ended (s.raiseErr .lengthFormat))
      fun n => .more (.block .start) (s.setBlklen (BitVec.ofNat 32 n))) := by
  rw [frameStep, State.parseDecimal_eq hfits hlen hbytes]
  cases lengthValue text <;> rfl

/-- Settles O20: the parse is the same step in both operations. -/
theorem lengthTextParses : Obligations.LengthTextParses := by
  intro s stop bufsel kind text hfits hlen hbytes
  have hparse := frameStep_parse hfits hlen hbytes
  refine ⟨fun hp => ?_, fun hp => ?_⟩
  · simp only [exec, execReadFrame, hp, hparse]
    cases lengthValue text <;> rfl
  · simp only [exec, execTransactG, hp, graphicsStep, hparse]
    cases lengthValue text <;> rfl

/-! ## The ends of a transaction (O19, O56, O57) -/

/-- The end of the ack token sets ACK_VALID and ACK_OK and no other flag. -/
theorem State.withAck_status_eq (s : State) : s.withAck.status =
    { s.status with ackValid := true, ackOk := s.withAck.status.ackOk } := rfl

/-- ACK_OK says whether the ack token begins with 0x30 (R142). -/
theorem State.TokenRead.ackOk {s v : State} {ack : List Byte} (h : s.TokenRead true ack v)
    (hc : s.cfg.Legal) : v.withAck.status.ackOk = decide (ack.head? = some 0x30) := by
  have hlen := h.tokenLen (Config.tokenCap_le hc)
  have hfirst := h.holds.1 0
  have hcap := Config.tokenCap_pos hc
  cases ack with
  | nil =>
    have hzero : v.regs.acklen.toNat = 0 := by simpa [State.tokenLen] using hlen
    simp [State.withAck, hzero]
  | cons b ack =>
    have hpos : 1 ≤ v.regs.acklen.toNat := by
      simp only [State.tokenLen, if_true, List.length_cons] at hlen
      omega
    have hb : v.byteAt .ackbuf 0 = b := hfirst.trans (if_pos (by simp; omega))
    simp [State.withAck, hpos, hb]

/-- Settles O19: the ack token is read whole, and recorded as a non-success. -/
theorem nonSuccessAckEndsTheTransaction : Obligations.NonSuccessAckEndsTheTransaction := by
  intro s stop bufsel graphics ack ws rest hs hp hts hfits hw hshort hstop hhead hreads
  obtain ⟨v, hv, hrest, hrun⟩ := ack_run (graphics := graphics) (stop := stop) (bufsel := bufsel)
    hs hts hfits hw hstop (filter_answers ack) (paced_answers _ _ _) hreads
  have hok : v.withAck.status.ackOk = false := by rw [hv.ackOk hs.cfgLegal, decide_eq_false hhead]
  have hafter : v.afterAck graphics = v.withAck.finish :=
    if_neg (by rw [hok]; exact Bool.false_ne_true)
  rw [if_neg (Nat.not_lt.mpr hshort), hafter] at hrun
  refine ⟨_, _, _, exec_transact_idle hp hfits graphics stop bufsel, hrun, rfl, hv.cfg, hv.rd, hv.latch,
    ?_, hv.regs_of_le hshort, ?_, hv.holds⟩
  · refine hv.env.trans ?_
    rw [hrest]
    rfl
  · rw [State.finish_status, State.withAck_status_eq, hok, hv.status]
    rfl

/-- Settles O56: the ack token overflows. -/
theorem ackOverflowEndsTheTransaction : Obligations.AckOverflowEndsTheTransaction := by
  intro s stop bufsel graphics ack ws rest hs hp hts hfits hw hlong hstop hreads
  obtain ⟨v, hv, hrest, hrun⟩ := ack_run (graphics := graphics) (stop := stop) (bufsel := bufsel)
    hs hts hfits hw hstop (filter_answers ack) (paced_answers _ _ _) hreads
  rw [if_pos hlong] at hrun
  refine ⟨_, _, _, exec_transact_idle hp hfits graphics stop bufsel, hrun, rfl, hv.cfg, hv.rd, hv.latch,
    ?_, hv.regs_of_lt hlong, ?_, hv.holds⟩
  · rw [State.raiseErr_env, hv.env, hrest]
    rfl
  · rw [State.raiseErr_status, hv.status]
    rfl

/-- The token after a successful ack, in a transaction of either kind. -/
theorem plays_following (l : Latch) (graphics : Bool) :
    ∃ fin, Plays l (fun p => tokenStep p (if graphics then comma else carriageReturn) false)
      (.following graphics) fin := by
  cases graphics
  · exact ⟨_, plays_second l⟩
  · exact ⟨_, (plays_frame l).lengthText⟩

/-- Settles O57: a successful ack, and then a token that overflows. -/
theorem secondTokenOverflowEndsTheTransaction : Obligations.SecondTokenOverflowEndsTheTransaction := by
  intro s stop sep bufsel graphics ack text ws rest hs hp hts hfits hw hack hstop hsep hlong hmem hreads
  obtain ⟨u, hu, hrunAck⟩ := acked_run (graphics := graphics) (stop := stop) (bufsel := bufsel)
    hs hts hfits hw hack hstop hreads
  obtain ⟨fin, hplays⟩ := plays_following u.latch graphics
  rw [show (if graphics then comma else carriageReturn) = sep from hsep.symm] at hplays
  have hcfg : u.cfg = s.cfg := hu.cfg
  obtain ⟨v, hv, hrest, hrun⟩ := token_run (s := u) hplays (hcfg ▸ hs.cfgLegal) hu.canonical
    (by rw [hu.env]; exact hts) hu.phase hmem (filter_answers text) (paced_answers _ _ _)
    (rest := rest) (by rw [hu.env])
  have hlong' : u.cfg.tokenCap < text.length := hcfg ▸ hlong
  rw [if_pos hlong'] at hrun
  refine ⟨_, _, v.raiseErr .tokenOverflow, exec_transact_idle hp hfits graphics stop bufsel,
    (State.run_add hrunAck _).trans hrun, rfl, hv.cfg.trans hcfg, hv.rd.trans hu.rd,
    hv.latch.trans hu.latch, ?_, ?_, ?_, fun i => ?_, fun i => ?_, fun sp i hack hstr => ?_⟩
  · rw [State.raiseErr_env, hv.env, hu.env, hrest]
  · rw [State.raiseErr_regs, hv.regs_of_lt hlong', State.setTokenLen_regs, hu.regs, hcfg]
    rfl
  · rw [State.raiseErr_status, hv.status, hu.status]
    rfl
  · refine ((hv.holds.2 .ackbuf i (by decide)).trans (hu.holds.1 i)).trans ?_
    rw [Nat.min_eq_left hack]
  · refine (hv.holds.1 i).trans ?_
    rw [Nat.min_eq_right hlong'.le, hcfg]
    exact if_congr Iff.rfl rfl (hu.holds.2 .strbuf i (by decide))
  · exact (hv.holds.2 sp i hstr).trans (hu.holds.2 sp i hack)

/-! ## One step of a read, in any operation -/

/-- Between `u` and `t` no channel answer is used and none is counted. -/
def State.SameRead (u t : State) : Prop := t.fr.emptycnt = u.fr.emptycnt ∧ t.env = u.env

theorem State.SameRead.trans {s t u : State} (h : s.SameRead t) (h' : t.SameRead u) : s.SameRead u :=
  ⟨h'.1.trans h.1, h'.2.trans h.2⟩

theorem State.storeToken_sameRead {u v : State} {ack : Bool} {b : Byte} (h : u.storeToken ack b = .ok v) :
    u.SameRead v := by
  rcases State.storeToken_ok h with ⟨-, rfl⟩ | ⟨-, rfl⟩
  · exact ⟨by simp, by simp⟩
  · exact ⟨rfl, rfl⟩

theorem State.storeBlock_sameRead {u v : State} {b : Byte} (h : u.storeBlock b = .ok v) :
    u.SameRead v := by
  rcases State.storeBlock_ok h with ⟨-, rfl⟩ | ⟨-, rfl⟩ <;> exact ⟨rfl, rfl⟩

/-- From `u` on the step is taken, and it makes no further `ChRead`. -/
def State.StepsTo (u : State) (o : Host.Outcome State Fault Refusal) : Prop :=
  ∃ t, o = .next t ∧ u.SameRead t

theorem State.stepsTo {u t : State} (h : u.SameRead t) : u.StepsTo (.next t) := ⟨t, rfl, h⟩

theorem State.SameRead.stepsTo {u v : State} {o : Host.Outcome State Fault Refusal} (h : u.SameRead v)
    (ho : v.StepsTo o) : u.StepsTo o := by
  obtain ⟨t, rfl, ht⟩ := ho
  exact ⟨t, rfl, h.trans ht⟩

/-- Acting on a byte is part of the step that read it: the step is taken, with no further `ChRead`. An ack
token's return reads the first byte of ACKBUF, so the buffer must have one (R8, R142). -/
def StepsOnBytes (onByte : Byte → State → Host.Outcome State Fault Refusal) : Prop :=
  ∀ (b : Byte) (v : State), 1 ≤ v.cfg.tokenCap → v.StepsTo (onByte b v)

theorem stepsOnBytes_token {s : State} {stop : Byte} {ack : Bool} {into : TokenPhase → Phase}
    {fin : State → Host.Outcome State Fault Refusal}
    (hfin : ∀ v : State, 1 ≤ v.cfg.tokenCap → v.StepsTo (fin v)) :
    StepsOnBytes (fun b v => resolve s into fin (tokenByte stop ack b v)) := by
  intro b u hcap
  dsimp only [tokenByte]
  split
  · split
    · exact State.stepsTo ⟨rfl, rfl⟩
    · exact hfin u hcap
  · cases hv : u.storeToken ack b with
    | error f => exact absurd hv (State.storeToken_no_fault _ _ _ _)
    | ok v => exact (State.storeToken_sameRead hv).stepsTo (State.stepsTo ⟨rfl, rfl⟩)

theorem stepsOnBytes_block {s : State} {into : BlockPhase → Phase}
    {fin : State → Host.Outcome State Fault Refusal} (hfin : ∀ v : State, v.StepsTo (fin v)) :
    StepsOnBytes (fun b v => resolve s into fin (blockByte b v)) := by
  intro b u _
  dsimp only [blockByte]
  split
  · exact State.SameRead.stepsTo ⟨rfl, rfl⟩ (hfin _)
  · cases hv : u.storeBlock b with
    | error f => exact absurd hv (State.storeBlock_no_fault _ _ _)
    | ok v => exact (State.storeBlock_sameRead hv).stepsTo (State.stepsTo ⟨rfl, rfl⟩)

/-- What a step of a read answers in `s`, from the answer to its `ChRead`: `onByte` acts on a byte. -/
def ByteRead.outcome (s : State) (onByte : Byte → State → Host.Outcome State Fault Refusal) :
    ByteRead → Host.Outcome State Fault Refusal
  | .wait => .next s
  | .ended v => .next v
  | .again v => .next (v.enter s.phase.looped)
  | .byte b v => onByte b v

/-- A step in `s` is one `ChRead` of a read, made in `u`, the state once the read's first lines have run
(notes/assumptions/10.md). -/
structure State.Reads (s u : State) (onByte : Byte → State → Host.Outcome State Fault Refusal) :
    Prop where
  loop_inLoop : s.phase.looped.inLoop = true
  loop_reads : s.phase.looped.reads = true
  enterRead : s.enterRead = u.enter s.phase.looped
  step : step s = (readByte u).outcome s onByte
  byte : StepsOnBytes onByte

/-- `start` and `loop` are the two phases of one read, of a block or of a token: what the statements' words
about PHASE say of them, by evaluation where the phases are given. -/
structure Phase.OneRead (block : Bool) (start loop : Phase) : Prop where
  start_inLoop : start.inLoop = false := by rfl
  loop_inLoop : loop.inLoop = true := by rfl
  loop_reads : loop.reads = true := by rfl
  start_startsBlock : start.startsBlock = block := by rfl
  start_looped : start.looped = loop := by rfl
  loop_looped : loop.looped = loop := by rfl

theorem State.enterRead_of_inLoop {s : State} (h : s.phase.inLoop = true) : s.enterRead = s := if_pos h

theorem State.enterRead_startToken {s : State} {ack : Bool} {loop : Phase}
    (h : Phase.OneRead false s.phase loop) (hregs : s.readRegs = (s.setTokenLen ack 0).regs) :
    s.enterRead = (s.startToken ack).enter loop := by
  unfold State.enterRead
  rw [h.start_inLoop, h.start_startsBlock, h.start_looped, hregs]
  cases ack <;> rfl

theorem State.enterRead_startBlock {s : State} {loop : Phase} (h : Phase.OneRead true s.phase loop)
    (hregs : s.readRegs = { s.regs with paylen := 0 }) : s.enterRead = s.startBlock.enter loop := by
  unfold State.enterRead
  rw [h.start_inLoop, h.start_startsBlock, h.start_looped, hregs]
  rfl

/-- Entering the phase it is in changes nothing in a state. -/
theorem State.enter_self {s : State} {p : Phase} (h : s.phase = p) : s.enter p = s := by
  subst h
  rfl

section
variable {π : Type} {s u : State} {body : π → State → Except Fault (Progress π)}
  {into : π → Phase} {fin : State → Host.Outcome State Fault Refusal} {block : Bool}
  {start loop p : π} {act : Byte → State → Except Fault (Progress π)}

/-- A procedure whose step is one `ChRead` in `u`, inside a running operation. -/
theorem Plays.reads (h : Plays s.latch body into fin) (hts : s.env.turns = []) (hp : s.phase = into p)
    (hone : Phase.OneRead block (into start) (into loop)) (hlooped : (into p).looped = into loop)
    (henter : s.enterRead = u.enter (into loop)) (hbody : body p s = (readByte u).andThen loop act)
    (hact : StepsOnBytes (fun b v => resolve s into fin (act b v))) :
    ∃ u onByte, s.Reads u onByte := by
  rw [← hp] at hlooped
  refine ⟨u, fun b v => resolve s into fin (act b v), hlooped ▸ hone.loop_inLoop,
    hlooped ▸ hone.loop_reads, hlooped ▸ henter, ?_, hact⟩
  rw [h s p hts rfl hp, hbody]
  cases readByte u with
  | again v => rw [ByteRead.outcome, hlooped]; rfl
  | _ => rfl

/-- Inside the loop of a read its first lines have run. -/
theorem Plays.reads_loop (h : Plays s.latch body into fin) (hts : s.env.turns = [])
    (hp : s.phase = into loop) (hone : Phase.OneRead block (into start) (into loop))
    (hbody : body loop s = (readByte s).andThen loop act)
    (hact : StepsOnBytes (fun b v => resolve s into fin (act b v))) :
    ∃ u onByte, s.Reads u onByte :=
  h.reads hts hp hone hone.loop_looped
    ((State.enterRead_of_inLoop (hp ▸ hone.loop_inLoop)).trans (State.enter_self hp).symm) hbody hact

end

/-- A step of `ReadToken`, in any operation. -/
theorem Plays.reads_token {s : State} {stop : Byte} {ack : Bool} {into : TokenPhase → Phase}
    {fin : State → Host.Outcome State Fault Refusal}
    (h : Plays s.latch (fun p => tokenStep p stop ack) into fin) (hts : s.env.turns = [])
    {p : TokenPhase} (hp : s.phase = into p) (hone : Phase.OneRead false (into .start) (into .loop))
    (hregs : p = .start → s.readRegs = (s.setTokenLen ack 0).regs)
    (hfin : ∀ v : State, 1 ≤ v.cfg.tokenCap → v.StepsTo (fin v)) :
    ∃ u onByte, s.Reads u onByte := by
  cases p with
  | start =>
    exact h.reads hts hp hone hone.start_looped (State.enterRead_startToken (hp ▸ hone) (hregs rfl))
      ((tokenStep_start stop ack s).trans (tokenStep_loop stop ack _)) (stepsOnBytes_token hfin)
  | loop => exact h.reads_loop hts hp hone (tokenStep_loop stop ack s) (stepsOnBytes_token hfin)

/-- A step of `ReadBlock`, in any operation. -/
theorem Plays.reads_block {s : State} {into : BlockPhase → Phase}
    {fin : State → Host.Outcome State Fault Refusal} (h : Plays s.latch blockStep into fin)
    (hts : s.env.turns = []) {p : BlockPhase} (hp : s.phase = into p)
    (hone : Phase.OneRead true (into .start) (into .loop))
    (hregs : p = .start → s.readRegs = { s.regs with paylen := 0 })
    (hfin : ∀ v : State, v.StepsTo (fin v)) : ∃ u onByte, s.Reads u onByte := by
  cases p with
  | start =>
    exact h.reads hts hp hone hone.start_looped (State.enterRead_startBlock (hp ▸ hone) (hregs rfl))
      ((blockStep_start s).trans (blockStep_loop _)) (stepsOnBytes_block hfin)
  | loop => exact h.reads_loop hts hp hone (blockStep_loop s) (stepsOnBytes_block hfin)

theorem State.stepsTo_finish (v : State) : v.StepsTo (.next v.finish) := State.stepsTo ⟨rfl, rfl⟩

theorem State.stepsTo_enter (v : State) (p : Phase) : v.StepsTo (.next (v.enter p)) :=
  State.stepsTo ⟨rfl, rfl⟩

theorem State.afterAck_sameRead (v : State) (graphics : Bool) : v.SameRead (v.afterAck graphics) := by
  unfold State.afterAck
  split <;> exact ⟨rfl, rfl⟩

/-- A step of a frame's read, of its length text or of its block, in any operation. -/
theorem Plays.reads_frame {s : State} {into : FramePhase → Phase}
    (h : Plays s.latch frameStep into (fun t => .next t.finish)) (hts : s.env.turns = []) {p : FramePhase}
    (hp : s.phase = into p) (hparse : p ≠ .parse)
    (htoken : Phase.OneRead false (into (.token .start)) (into (.token .loop)))
    (hblock : Phase.OneRead true (into (.block .start)) (into (.block .loop)))
    (hstrlen : p = .token .start → s.readRegs = { s.regs with strlen := 0 })
    (hpaylen : p = .block .start → s.readRegs = { s.regs with paylen := 0 }) :
    ∃ u onByte, s.Reads u onByte := by
  cases p with
  | token t =>
    exact h.lengthText.reads_token hts hp htoken (fun ht => hstrlen (by rw [ht]))
      fun v _ => v.stepsTo_enter _
  | parse => exact absurd rfl hparse
  | block b =>
    exact h.frameBlock.reads_block hts hp hblock (fun hb => hpaylen (by rw [hb]))
      State.stepsTo_finish

/-- A step of a transaction's ack token. -/
theorem State.reads_acking {s : State} (hts : s.env.turns = []) (graphics : Bool) {t : TokenPhase}
    (hp : s.phase = .acking graphics t) : ∃ u onByte, s.Reads u onByte := by
  obtain ⟨fin, hplays, hfin⟩ := plays_acking s.latch graphics
  refine hplays.reads_token hts hp (by cases graphics <;> exact {}) ?_ fun v hcap => ?_
  · rintro rfl
    cases graphics <;> simp only [State.readRegs, hp, Phase.acking] <;> rfl
  · rw [hfin v hcap]
    exact State.stepsTo (v.afterAck_sameRead graphics)

/-- Every phase whose next step is a `ChRead` is one of a read. -/
theorem State.exists_reads {s : State} (hreads : s.phase.reads = true) (hts : s.env.turns = []) :
    ∃ u onByte, s.Reads u onByte := by
  cases hp : s.phase with
  | readUntil t =>
    exact (plays_readUntil s.latch).reads_token hts hp {} (by rintro rfl; simp only [State.readRegs, hp])
      fun v _ => v.stepsTo_finish
  | readBlock b =>
    exact (plays_readBlock s.latch).reads_block hts hp {}
      (by rintro rfl; simp only [State.readRegs, hp]) State.stepsTo_finish
  | readFrame f =>
    exact (plays_readFrame s.latch).reads_frame hts hp
      (by rintro rfl; simp [hp, Phase.reads] at hreads) {} {}
      (by rintro rfl; simp only [State.readRegs, hp]) (by rintro rfl; simp only [State.readRegs, hp])
  | transactS p =>
    cases p with
    | ack t => exact State.reads_acking hts false hp
    | second t =>
      exact (plays_second s.latch).reads_token hts hp {}
        (by rintro rfl; simp only [State.readRegs, hp]; rfl) fun v _ => v.stepsTo_finish
    | send => simp [hp, Phase.reads] at hreads
  | transactG p =>
    cases p with
    | ack t => exact State.reads_acking hts true hp
    | frame f =>
      exact (plays_frame s.latch).reads_frame hts hp
        (by rintro rfl; simp [hp, Phase.reads] at hreads) {} {}
        (by rintro rfl; simp only [State.readRegs, hp]) (by rintro rfl; simp only [State.readRegs, hp])
    | send => simp [hp, Phase.reads] at hreads
  | _ => simp [hp, Phase.reads] at hreads

/-! ## The three answers (O21, O22, O24) -/

theorem State.enterRead_env (s : State) : s.enterRead.env = s.env := by
  unfold State.enterRead
  split
  · rfl
  · split <;> rfl

theorem State.enterRead_cfg (s : State) : s.enterRead.cfg = s.cfg := by
  unfold State.enterRead
  split
  · rfl
  · split <;> rfl

section
variable {s u : State} {onByte : Byte → State → Host.Outcome State Fault Refusal}

theorem State.Reads.fr (h : s.Reads u onByte) : s.enterRead.fr = u.fr :=
  (congrArg State.fr h.enterRead :)

theorem State.Reads.env (h : s.Reads u onByte) : u.env = s.env :=
  (congrArg State.env h.enterRead).symm.trans s.enterRead_env

theorem State.Reads.cfg (h : s.Reads u onByte) : u.cfg = s.cfg :=
  (congrArg State.cfg h.enterRead).symm.trans s.enterRead_cfg

end

/-- Settles O21: `ReadByte` ends the operation. -/
theorem channelReadFailureEndsTheOperation : Obligations.ChannelReadFailureEndsTheOperation := by
  intro s rest hp hts hreads
  obtain ⟨u, onByte, h⟩ := State.exists_reads hp hts
  have hread : readByte u = .ended ((u.setReads rest).raiseErr .readFail) := by
    simp only [readByte, h.env, hreads]
  rw [h.step, hread, h.enterRead, ← h.env]
  rfl

/-- Settles O22: `ReadByte` ends the operation. -/
theorem emptyLimitEndsEveryRead : Obligations.EmptyLimitEndsEveryRead := by
  intro s rest hp hts hreads hlimit
  obtain ⟨u, onByte, h⟩ := State.exists_reads hp hts
  rw [h.fr, ← h.cfg] at hlimit
  have hread : readByte u =
      .ended (((u.setReads rest).setEmptycnt (u.fr.emptycnt + 1)).raiseErr .readTimeout) := by
    simp only [readByte, h.env, hreads, if_pos hlimit]
  rw [h.step, hread, h.enterRead, ← h.env]
  rfl

/-- The state after an empty answer that only counts (R122). -/
def State.afterEmpty (s : State) (rest : List ReadAnswer) : State :=
  { s.enterRead with
    fr := { s.enterRead.fr with emptycnt := s.enterRead.fr.emptycnt + 1 }
    env := { s.env with reads := rest } }

theorem step_empty {s : State} {rest : List ReadAnswer} (hp : s.phase.reads = true)
    (hts : s.env.turns = []) (hreads : s.env.reads = .empty :: rest)
    (hlimit : (s.enterRead.fr.emptycnt + 1).toNat ≠ s.cfg.emptyLimit) :
    step s = .next (s.afterEmpty rest) := by
  obtain ⟨u, onByte, h⟩ := State.exists_reads hp hts
  rw [h.fr, ← h.cfg] at hlimit
  rw [h.step, readByte_empty (h.env ▸ hreads) hlimit, State.afterEmpty, h.enterRead, ← h.env]
  rfl

/-- Settles O24: a byte clears the count in `ReadByte`, and what acts on it counts nothing. -/
theorem emptyCountRestartsAtAByte : Obligations.EmptyCountRestartsAtAByte := by
  intro s rest hs hp hts
  refine ⟨step_empty hp hts, fun b hreads => ?_⟩
  obtain ⟨u, onByte, h⟩ := State.exists_reads hp hts
  have hcap : 1 ≤ u.cfg.tokenCap := by rw [h.cfg]; exact Config.tokenCap_pos hs.cfgLegal
  rw [h.step, readByte_byte (h.env ▸ hreads)]
  obtain ⟨t, ht, hcount, henv⟩ := h.byte b ((u.setReads rest).setEmptycnt 0) hcap
  exact ⟨t, ht, hcount, by rw [henv, ← h.env]; rfl⟩

/-! ## A read that times out (O23) -/

theorem Config.emptyLimit_pos {c : Config} (h : c.Legal) : 0 < c.emptyLimit := by
  obtain ⟨-, -, -, -, -, ⟨hmin, -⟩, -⟩ := h
  exact hmin

/-- The state in which a read has timed out: its first lines have run, and EMPTY_LIMIT empty answers in a
row have been counted (R122). -/
def State.timedOut (s : State) (rest : List ReadAnswer) : State :=
  { s.enterRead with
    phase := .idle
    status := { s.enterRead.status with done := true, err := .readTimeout }
    fr := { s.enterRead.fr with emptycnt := BitVec.ofNat 32 s.cfg.emptyLimit }
    env := { s.env with reads := rest } }

/-- After an empty answer the read stands in its loop. -/
theorem State.afterEmpty_phase {s : State} (hp : s.phase.reads = true) (hts : s.env.turns = [])
    (rest : List ReadAnswer) :
    (s.afterEmpty rest).phase.inLoop = true ∧ (s.afterEmpty rest).phase.reads = true := by
  obtain ⟨u, onByte, h⟩ := State.exists_reads hp hts
  have hphase : (s.afterEmpty rest).phase = s.phase.looped := (congrArg State.phase h.enterRead :)
  rw [hphase]
  exact ⟨h.loop_inLoop, h.loop_reads⟩

/-- A counted empty answer is one of those that time a read out. -/
theorem State.timedOut_afterEmpty {s : State} {more : List ReadAnswer} (rest : List ReadAnswer)
    (h : (s.afterEmpty more).phase.inLoop = true) :
    (s.afterEmpty more).timedOut rest = s.timedOut rest := by
  rw [State.timedOut, State.enterRead_of_inLoop h]
  simp only [State.afterEmpty, State.timedOut, State.enterRead_cfg]

/-- Empty answers in a row, up to EMPTY_LIMIT of them with those counted before, end any read (R122). -/
theorem empties_run {n : Nat} {s : State} {rest : List ReadAnswer} (hp : s.phase.reads = true)
    (hts : s.env.turns = []) (hreads : s.env.reads = List.replicate (n + 1) .empty ++ rest)
    (hcount : s.enterRead.fr.emptycnt.toNat + (n + 1) = s.cfg.emptyLimit)
    (hlimit : s.cfg.emptyLimit < 2 ^ 32) : s.run (n + 1) = .next (s.timedOut rest) := by
  induction n generalizing s with
  | zero =>
    have hlast : s.enterRead.fr.emptycnt + 1 = BitVec.ofNat 32 s.cfg.emptyLimit := by
      rw [← hcount, BitVec.ofNat_add, BitVec.ofNat_toNat, BitVec.setWidth_eq]
      rfl
    have hlast' : (s.enterRead.fr.emptycnt + 1).toNat = s.cfg.emptyLimit := by
      rw [hlast, BitVec.toNat_ofNat, Nat.mod_eq_of_lt hlimit]
    rw [State.run_one, emptyLimitEndsEveryRead s rest hp hts hreads hlast', hlast]
    rfl
  | succ n ih =>
    obtain ⟨more, hmore⟩ : ∃ more, more = List.replicate (n + 1) ReadAnswer.empty ++ rest :=
      ⟨_, rfl⟩
    have hfirst : s.env.reads = .empty :: more := by rw [hreads, hmore]; rfl
    have hnext : (s.enterRead.fr.emptycnt + 1).toNat = s.enterRead.fr.emptycnt.toNat + 1 := by
      simp only [BitVec.toNat_add, BitVec.reduceToNat]
      omega
    have hstep := step_empty hp hts hfirst (by rw [hnext]; omega)
    obtain ⟨hin, hp'⟩ := State.afterEmpty_phase hp hts more
    have hcfg : (s.afterEmpty more).cfg = s.cfg := s.enterRead_cfg
    have hcount' : (s.afterEmpty more).fr.emptycnt.toNat + (n + 1) = s.cfg.emptyLimit := by
      rw [show (s.afterEmpty more).fr.emptycnt.toNat = _ from hnext]
      omega
    rw [State.run_succ hstep, ← State.timedOut_afterEmpty rest hin]
    exact ih hp' hts hmore (by rw [State.enterRead_of_inLoop hin, hcfg, hcount']) (hcfg ▸ hlimit)

/-- Settles O23: acceptance, and one step for each empty answer. -/
theorem emptyReadsTimeOut : Obligations.EmptyReadsTimeOut := by
  intro s stop ack kind rest hs hp hts hreads
  obtain ⟨n, hn⟩ : ∃ n, s.cfg.emptyLimit = n + 1 :=
    Nat.exists_eq_add_one.mpr (Config.emptyLimit_pos hs.cfgLegal)
  rw [hn] at hreads
  have hrun := empties_run (s := s.accept ⟨stop, ack, kind⟩ (.readUntil .start)) (n := n) rfl hts hreads
    (by rw [State.accept_cfg, hn]; exact Nat.zero_add _) (Config.emptyLimit_lt hs.cfgLegal)
  rw [← hn] at hrun
  refine ⟨_, _, exec_readUntil_idle hp stop ack kind, hrun, rfl, rfl, rfl, ?_, rfl⟩
  cases ack <;> rfl

end Sys2Proof.Machine

/-! PROOFS. The statements of spec/41_raster_decoder.md: the pixel write, the bit-image command, the
byte-wise machine against the whole commands, commands cut short by PAYLEN, the end of every decode, and
what a decode depends on. -/

namespace Sys2Proof.Machine

/-! ## The pixel write (O26) -/

theorem pixWrite_total {c : Config} (hc : c.Legal) (x y : Nat) (v : Bool) (m : Memory) :
    ∃ m', pixWrite c x y v m = .ok m' := by
  cases h : pixWrite c x y v m with
  | ok m' => exact ⟨m', rfl⟩
  | error f => exact absurd h (pixWrite_no_fault hc x y v m f)

theorem wf_pixWrite {c : Config} {x y : Nat} {v : Bool} {m m' : Memory} (hm : Memory.wf m = true)
    (h : pixWrite c x y v m = .ok m') : Memory.wf m' = true := by
  rcases pixWrite_ok h with ⟨-, -, -, rfl⟩ | ⟨-, rfl⟩
  · exact Memory.wf_write hm _ _
  · exact hm

/-- A pixel outside W x H is dropped (R166). -/
theorem pixWrite_outside {c : Config} {x y : Nat} (h : ¬ (x < c.w ∧ y < c.h)) (v : Bool) (m : Memory) :
    pixWrite c x y v m = .ok m := if_neg h

/-- Settles O26. -/
theorem pixelWriteChangesOnePixel : Obligations.PixelWriteChangesOnePixel := by
  intro c m x y v hc hm
  obtain ⟨m', hw⟩ := pixWrite_total hc x y v m
  refine ⟨m', hw, wf_pixWrite hm hw, fun x' y' hx hy => pixel_pixWrite hc hm hw hx hy, fun hout => ?_⟩
  rw [pixWrite_outside hout] at hw
  cases hw
  rfl

/-! ## The bit-image command (O27) -/

theorem State.Inv.bitmapHolds {s : State} (h : s.Inv) : Space.bitmap.Holds s.cfg s.bufs.bitmap :=
  ⟨h.bufsCanonical .bitmap, h.bufsWithin .bitmap⟩

/-- Columns painted from column 0 (R168, R169). -/
theorem State.Inv.pixel_paintColumns {s : State} (hs : s.Inv) {ds : List Byte} {m : Memory}
    (h : paintColumns s.cfg s.regs.ycur.toNat 0 ds s.bufs.bitmap = .ok m) {x y : Nat}
    (hx : x < s.cfg.w) (hy : y < s.cfg.h) :
    pixel s.cfg m x y =
      if x < ds.length ∧ s.regs.ycur.toNat ≤ y ∧ y < s.regs.ycur.toNat + 8 then
        (ds.getD x 0).getLsbD (7 - (y - s.regs.ycur.toNat))
      else pixel s.cfg s.bufs.bitmap x y := by
  simpa using Machine.pixel_paintColumns hs.cfgLegal hs.bitmapHolds h hx hy

/-- The state after a bit-image command that has left the bitmap `m` (R162, R168, R171). -/
def State.bitImageDone (s : State) (nx : BitVec 16) (m : Memory) : State :=
  (((s.setBuf .bitmap m).setNl (nx.extractLsb' 0 8)).setColumns nx nx).advanceRow.consume (5 + nx.toNat)

theorem exec_escBitimg_of_ok {s : State} {data : List Byte} {m : Memory}
    (h : paintColumns s.cfg s.regs.ycur.toNat 0 data s.bufs.bitmap = .ok m) (mode : Byte)
    (nx : BitVec 16) : exec (.escBitimg mode nx data) s = .next (s.bitImageDone nx m) := by
  simp only [exec, execEscBitimg, h]
  rfl

/-- Settles O27: the columns are painted, and the rest of the state is written out. -/
theorem bitImagePaintsItsColumns : Obligations.BitImagePaintsItsColumns := by
  intro s mode nx data hs hlen
  obtain ⟨m, hm⟩ := paintColumns_ok hs.cfgLegal s.regs.ycur.toNat 0 data s.bufs.bitmap
  refine ⟨_, exec_escBitimg_of_ok hm mode nx, fun x y hx hy => ?_, rfl⟩
  rw [← hlen]
  exact hs.pixel_paintColumns hm hx hy

/-! ## DECODE's own steps (O31) -/

theorem exec_decode_clear {s : State} (hp : s.phase = .decode .clear) (stop : Byte) (bufsel kind : Bool) :
    exec (.decode stop bufsel kind) s = .next (s.startDecode.enter (.decode .loop)) := by
  simp only [exec, execDecode, hp]

section
variable {s : State} (hp : s.phase = .decode .loop) (stop : Byte) (bufsel kind : Bool)
include hp

theorem exec_decode_byte (hlt : s.rd.pos.toNat < s.regs.paylen.toNat) :
    exec (.decode stop bufsel kind) s = unlessFault (decodeByte s) := by
  simp only [exec, execDecode, hp, if_pos hlt]

theorem exec_decode_end (hend : s.regs.paylen.toNat ≤ s.rd.pos.toNat) :
    exec (.decode stop bufsel kind) s = .next s.endDecode.finish := by
  simp only [exec, execDecode, hp, if_neg (Nat.not_lt.mpr hend)]

end

/-- `EndDecode` inside a command (R178). -/
theorem State.endDecode_inside {s : State} (h : s.rd.pstate ≠ .text) :
    s.endDecode = { s with
      status := { s.status with malformed := true }
      regs := { s.regs with decpos := s.rd.cmdstart } } := if_neg h

/-- Settles O31: the clear, and `EndDecode` in its two cases. -/
theorem decodeClearsAndReports : Obligations.DecodeClearsAndReports := by
  intro s stop bufsel kind
  refine ⟨fun hp => exec_decode_clear hp .., fun hp hend htext => ?_, fun hp hend hopen => ?_⟩
  · rw [exec_decode_end hp stop bufsel kind hend, State.endDecode_text htext]
    rfl
  · rw [exec_decode_end hp stop bufsel kind hend, State.endDecode_inside hopen]
    rfl

/-! ## Steps of one instruction -/

theorem repeatExec_succ {i : Instr} {s t : State} (h : exec i s = .next t) (k : Nat) :
    repeatExec i (k + 1) s = repeatExec i k t := by
  simp only [repeatExec, h]

theorem repeatExec_snoc {i : Instr} {s t : State} {k : Nat} (h : repeatExec i k s = .next t) :
    repeatExec i (k + 1) s = exec i t := by
  induction k generalizing s with
  | zero =>
    cases h
    simp only [repeatExec]
    split <;> exact Eq.symm ‹_›
  | succ k ih =>
    cases he : exec i s with
    | next u =>
      rw [repeatExec_succ he] at h ⊢
      exact ih h
    | fault f => simp [repeatExec, he] at h
    | refused r => simp [repeatExec, he] at h

/-- As long as each step of the machine is a step of the instruction, so is the run. -/
theorem State.run_eq_repeatExec {i : Instr} {s : State} {n : Nat}
    (h : ∀ k, k < n → ∀ u, repeatExec i k s = .next u → step u = exec i u) :
    s.run n = repeatExec i n s := by
  induction n generalizing s with
  | zero => rfl
  | succ n ih =>
    have hstep := h 0 (Nat.succ_pos n) s rfl
    cases he : exec i s with
    | next t =>
      rw [State.run_succ (hstep.trans he), repeatExec_succ he]
      exact ih fun k hk u hu => h (k + 1) (by omega) u ((repeatExec_succ he k).trans hu)
    | fault f => simp only [State.run, Host.Core.run, core, repeatExec, hstep, he]
    | refused r => simp only [State.run, Host.Core.run, core, repeatExec, hstep, he]

/-! ## The byte-wise machine over a list of bytes (R162) -/

/-- DECODE's rounds over the bytes `bs`: POS moves past each, and `DecodeStep` runs on it (R160, R162). -/
def decodeBytes : List Byte → State → Except Fault State
  | [], s => .ok s
  | b :: bs, s =>
    match decodeStep b s.advancePos with
    | .error f => .error f
    | .ok t => decodeBytes bs t

@[simp] theorem decodeBytes_nil (s : State) : decodeBytes [] s = .ok s := rfl

theorem decodeBytes_cons {b : Byte} {s t : State} (h : decodeStep b s.advancePos = .ok t)
    (bs : List Byte) : decodeBytes (b :: bs) s = decodeBytes bs t := by
  simp only [decodeBytes, h]

theorem decodeBytes_append {as : List Byte} {s t : State} (h : decodeBytes as s = .ok t)
    (bs : List Byte) : decodeBytes (as ++ bs) s = decodeBytes bs t := by
  induction as generalizing s with
  | nil => cases h; rfl
  | cons a as ih =>
    cases ha : decodeStep a s.advancePos with
    | error f => simp [decodeBytes, ha] at h
    | ok u =>
      rw [decodeBytes_cons ha] at h
      rw [List.cons_append, decodeBytes_cons ha, ih h]

theorem State.StreamAt.take {s : State} {bs : List Byte} (h : s.StreamAt bs) (k : Nat) :
    s.StreamAt (bs.take k) := by
  obtain ⟨hfits, hbytes⟩ := h
  refine ⟨by rw [List.length_take]; omega, fun j hj => ?_⟩
  have hlen := hj
  rw [List.length_take] at hlen
  rw [hbytes j (by omega), List.getD_eq_getElem _ _ hj, List.getD_eq_getElem _ _ (by omega),
    List.getElem_take]

/-- The first byte at POS is the one DECODE's next round fetches (R160). -/
theorem State.StreamAt.decodeByte_eq {s : State} {b : Byte} {bs : List Byte} (h : s.StreamAt (b :: bs))
    (hcap : s.regs.paylen.toNat ≤ s.cfg.payloadCap) :
    s.rd.pos.toNat < s.regs.paylen.toNat ∧ decodeByte s = decodeStep b s.advancePos := by
  obtain ⟨hfits, hbytes⟩ := h
  rw [List.length_cons] at hfits
  have hlt : s.rd.pos.toNat < s.regs.paylen.toNat := by omega
  have hfirst : s.byteAt .payload s.rd.pos.toNat = b := by simpa using hbytes 0 (by simp)
  refine ⟨hlt, ?_⟩
  rw [decodeByte, State.blockRead_of_lt (show _ < Space.payload.size s.cfg from hlt.trans_le hcap),
    hfirst]

/-- The bytes after the first stand at POS after its round. -/
theorem State.StreamAt.tail {s t : State} {b : Byte} {bs : List Byte} (h : s.StreamAt (b :: bs))
    (ht : decodeByte s = .ok t) : t.StreamAt bs := by
  obtain ⟨hfits, hbytes⟩ := h
  rw [List.length_cons] at hfits
  have hpaylen := s.regs.paylen.isLt
  have hpos : t.rd.pos.toNat = s.rd.pos.toNat + 1 := by
    rw [(decodeByte_consumes ht).pos, BitVec.toNat_add, BitVec.toNat_ofNat]
    omega
  refine ⟨by rw [hpos, (decodeByte_consumes ht).paylen]; omega, fun j hj => ?_⟩
  have hbyte : t.byteAt .payload (t.rd.pos.toNat + j) = s.byteAt .payload (s.rd.pos.toNat + (j + 1)) := by
    simp only [State.byteAt, Buffers.get, (decodeByte_decoderKeeps ht).payload, hpos]
    congr 1
    omega
  rw [hbyte, hbytes (j + 1) (by rw [List.length_cons]; omega), List.getD_cons_succ]

/-- DECODE's steps over bytes that stand at POS are the byte-wise machine's. -/
theorem repeatExec_decode {s : State} {bs : List Byte} (hp : s.phase = .decode .loop)
    (hcap : s.regs.paylen.toNat ≤ s.cfg.payloadCap) (h : s.StreamAt bs) :
    repeatExec s.decodeInstr bs.length s = unlessFault (decodeBytes bs s) := by
  induction bs generalizing s with
  | nil => rfl
  | cons b bs ih =>
    obtain ⟨hlt, hbyte⟩ := h.decodeByte_eq hcap
    have hexec : exec s.decodeInstr s = unlessFault (decodeStep b s.advancePos) := by
      rw [State.decodeInstr, exec_decode_byte hp _ _ _ hlt, hbyte]
    cases hd : decodeStep b s.advancePos with
    | error f => simp [repeatExec, hexec, decodeBytes, hd, unlessFault]
    | ok t =>
      rw [hd] at hexec hbyte
      obtain ⟨-, hcfg, hphase, -, hlatch, -, hpaylen, -⟩ := decodeByte_consumes hbyte
      have hinstr : s.decodeInstr = t.decodeInstr := by rw [State.decodeInstr, State.decodeInstr, hlatch]
      rw [decodeBytes_cons hd, List.length_cons, repeatExec_succ hexec, hinstr]
      exact ih (hphase.trans hp) (by rw [hpaylen, hcfg]; exact hcap) (h.tail hbyte)

/-! ## Inside a command -/

/-- `n` bytes of a command, from its escape byte at POS, have been consumed, and PSTATE is `p` (R44). -/
def State.inside (s : State) (n : Nat) (p : PState) : State :=
  { s with rd := { s.rd with
      pos := s.rd.pos + BitVec.ofNat 32 n, cmdstart := s.rd.pos, pstate := p } }

@[simp] theorem State.inside_advancePos (s : State) (n : Nat) (p : PState) :
    (s.inside n p).advancePos = s.inside (n + 1) p := by
  simp only [State.inside, State.advancePos, BitVec.ofNat_add, BitVec.add_assoc, BitVec.ofNat_eq_ofNat]

/-- The escape byte opens a command (R162). -/
theorem decodeStep_escape {s : State} (h : s.rd.pstate = .text) :
    decodeStep escByte s.advancePos = .ok (s.inside 1 .esc) := by
  simp [decodeStep, h, State.inside, State.markStart, State.setPstate, State.advancePos]

/-- Any other byte between commands is dropped (R163). -/
theorem decodeStep_text {s : State} {b : Byte} (h : s.rd.pstate = .text) (hb : b ≠ escByte) :
    decodeStep b s.advancePos = .ok s.advancePos := by
  simp [decodeStep, h, hb]

/-- The state of R162's machine after a selector of each class. -/
def stateAfterSelector : SelectorClass → PState
  | .reset | .pitch | .unrec => .text
  | .bitImage => .biMode
  | .lineSpace | .fontFamily => .operand

/-- An escape byte and its selector; only a selector of class UNREC is counted (R162, R176). -/
theorem decodeBytes_selector {s : State} (h : s.rd.pstate = .text) (sel : Byte) (bs : List Byte) :
    decodeBytes (escByte :: sel :: bs) s =
      decodeBytes bs ((if selectorClass s.cfg sel = .unrec then s.countUnrec else s).inside 2
        (stateAfterSelector (selectorClass s.cfg sel))) := by
  rw [decodeBytes_cons (decodeStep_escape h)]
  refine decodeBytes_cons ?_ bs
  rw [State.inside_advancePos]
  cases hsel : selectorClass s.cfg sel <;>
    simp [decodeStep, State.inside, State.setPstate, State.countUnrec, hsel, stateAfterSelector]

/-- The operand of a line-space or font-family command ends it (R173, R174). -/
theorem decodeBytes_operand (s : State) (b : Byte) :
    decodeBytes [b] (s.inside 2 .operand) = .ok (s.consume 3) := by
  rw [decodeBytes_cons (t := s.consume 3) (by rw [State.inside_advancePos]; rfl), decodeBytes_nil]

/-- The bit-image command of `nx` columns, the first `k` of them received, and the bitmap `m`: still in its
columns, or done (R162, R168, R171). -/
def State.afterColumns (s : State) (nx : BitVec 16) (k : Nat) (m : Memory) : State :=
  if k = nx.toNat then s.bitImageDone nx m
  else (((s.setBuf .bitmap m).setNl (nx.extractLsb' 0 8)).setColumns nx (BitVec.ofNat 16 k)).inside (5 + k)
    .biData

theorem decodeBytes_mode (s : State) (mode : Byte) :
    decodeBytes [mode] (s.inside 2 .biMode) = .ok (s.inside 3 .biNl) := by
  rw [decodeBytes_cons (t := s.inside 3 .biNl) (by rw [State.inside_advancePos]; rfl), decodeBytes_nil]

theorem decodeBytes_nl (s : State) (nl : Byte) :
    decodeBytes [nl] (s.inside 3 .biNl) = .ok ((s.setNl nl).inside 4 .biNh) := by
  rw [decodeBytes_cons (t := (s.setNl nl).inside 4 .biNh) (by rw [State.inside_advancePos]; rfl),
    decodeBytes_nil]

theorem decodeStep_biNh {s : State} (h : s.rd.pstate = .biNh) (b : Byte) :
    decodeStep b s =
      if columnCount s.rd.nl b = 0 then .ok ((s.setColumns 0 0).advanceRow.setPstate .text)
      else .ok ((s.setColumns (columnCount s.rd.nl b) 0).setPstate .biData) := by
  simp only [decodeStep, h]

/-- The high count byte begins the columns, or ends the command when there are none (R162, R171). -/
theorem decodeBytes_nh (s : State) (nx : BitVec 16) :
    decodeBytes [nx.extractLsb' 8 8] ((s.setNl (nx.extractLsb' 0 8)).inside 4 .biNh) =
      .ok (s.afterColumns nx 0 s.bufs.bitmap) := by
  refine decodeBytes_cons ?_ []
  have hcount : columnCount ((s.setNl (nx.extractLsb' 0 8)).inside 5 .biNh).rd.nl (nx.extractLsb' 8 8) =
      nx := columnCount_of_bytes nx
  rw [State.inside_advancePos, decodeStep_biNh rfl, hcount]
  by_cases h0 : nx = 0
  · subst h0
    rfl
  · have hne : 0 ≠ nx.toNat := fun h => h0 (BitVec.eq_of_toNat_eq h.symm)
    rw [if_neg h0, State.afterColumns, if_neg hne]
    rfl

/-- The five bytes of a bit-image command before its columns (R99, R168). -/
theorem decodeBytes_bitImage {s : State} (h : s.rd.pstate = .text) (mode : Byte) (nx : BitVec 16) :
    decodeBytes [escByte, 0x2A, mode, nx.extractLsb' 0 8, nx.extractLsb' 8 8] s =
      .ok (s.afterColumns nx 0 s.bufs.bitmap) := by
  have hclass : selectorClass s.cfg 0x2A = .bitImage := rfl
  rw [decodeBytes_selector h, hclass]
  exact (decodeBytes_append (decodeBytes_mode s mode) _).trans
    ((decodeBytes_append (decodeBytes_nl s _) _).trans (decodeBytes_nh s nx))

theorem decodeStep_biData {s : State} (h : s.rd.pstate = .biData) {b : Byte} {m : Memory}
    (hm : paintColumn s.cfg s.rd.xc.toNat s.regs.ycur.toNat b s.bufs.bitmap = .ok m) :
    decodeStep b s =
      if s.rd.xc + 1 = s.rd.nx then
        .ok (((s.setBuf .bitmap m).setColumns s.rd.nx (s.rd.xc + 1)).advanceRow.setPstate .text)
      else .ok ((s.setBuf .bitmap m).setColumns s.rd.nx (s.rd.xc + 1)) := by
  simp only [decodeStep, h, hm]

/-- A data byte paints the next column; the last one ends the command (R162, R168, R171). -/
theorem decodeStep_column {s : State} {nx : BitVec 16} {k : Nat} {d : Byte} {m m' : Memory}
    (hk : k < nx.toNat) (h : paintColumn s.cfg k s.regs.ycur.toNat d m = .ok m') :
    decodeStep d (s.afterColumns nx k m).advancePos = .ok (s.afterColumns nx (k + 1) m') := by
  have hnx := nx.isLt
  have hxc : (BitVec.ofNat 16 k).toNat = k := Nat.mod_eq_of_lt (by omega)
  have hxcNext : BitVec.ofNat 16 k + 1 = BitVec.ofNat 16 (k + 1) := (BitVec.ofNat_add ..).symm
  rw [State.afterColumns, if_neg hk.ne, State.inside_advancePos, decodeStep_biData rfl (m := m') (by
    show paintColumn s.cfg (BitVec.ofNat 16 k).toNat s.regs.ycur.toNat d m = .ok m'
    rw [hxc, h])]
  show (if BitVec.ofNat 16 k + 1 = nx then _ else _) = _
  by_cases hlast : k + 1 = nx.toNat
  · obtain rfl : nx = BitVec.ofNat 16 k + 1 := by
      rw [hxcNext, hlast, BitVec.ofNat_toNat, BitVec.setWidth_eq]
    rw [if_pos rfl, State.afterColumns, if_pos hlast, State.bitImageDone, ← hlast]
    rfl
  · have hmore : BitVec.ofNat 16 k + 1 ≠ nx := fun he => hlast (by
      rw [← he, hxcNext, BitVec.toNat_ofNat]
      omega)
    rw [if_neg hmore, State.afterColumns, if_neg hlast, ← hxcNext]
    rfl

/-- The columns of a bit-image command, one `DecodeStep` each (R168). -/
theorem decodeBytes_columns {s : State} {nx : BitVec 16} {k : Nat} {ds : List Byte} {m m' : Memory}
    (hk : k + ds.length ≤ nx.toNat) (h : paintColumns s.cfg s.regs.ycur.toNat k ds m = .ok m') :
    decodeBytes ds (s.afterColumns nx k m) = .ok (s.afterColumns nx (k + ds.length) m') := by
  induction ds generalizing k m with
  | nil => cases h; rfl
  | cons d ds ih =>
    rw [List.length_cons] at hk ⊢
    simp only [paintColumns] at h
    split at h
    · cases h
    · rename_i m1 hm1
      rw [decodeBytes_cons (decodeStep_column (by omega) hm1), ih (by omega) h,
        Nat.add_assoc, Nat.add_comm 1]

/-- A bit-image command up to any of its columns (R162, R168). -/
theorem decodeBytes_bitImage_columns {s : State} (h : s.rd.pstate = .text) (mode : Byte) {nx : BitVec 16}
    {ds : List Byte} (hlen : ds.length ≤ nx.toNat) {m : Memory}
    (hm : paintColumns s.cfg s.regs.ycur.toNat 0 ds s.bufs.bitmap = .ok m) :
    decodeBytes (escByte :: 0x2A :: mode :: nx.extractLsb' 0 8 :: nx.extractLsb' 8 8 :: ds) s =
      .ok (s.afterColumns nx ds.length m) := by
  have hcolumns := decodeBytes_columns (nx := nx) (k := 0) (by omega) hm
  rw [Nat.zero_add] at hcolumns
  exact (decodeBytes_append (decodeBytes_bitImage h mode nx) ds).trans hcolumns

/-! ## A whole command (O29) -/

/-- The byte-wise machine over the bytes of a command does what the command does in one step (R162,
R164). -/
theorem decodeBytes_encode {s : State} {i : Instr} (hc : s.cfg.Legal) (htext : s.rd.pstate = .text)
    (hi : i.isCommand = false) (hwf : i.wf s.cfg = true) :
    unlessFault (decodeBytes (encode s.cfg i).stream s) = exec i s := by
  cases i with
  | escBitimg mode nx data =>
    have hlen : data.length = nx.toNat := by simpa [Instr.wf] using hwf
    obtain ⟨m, hm⟩ := paintColumns_ok hc s.regs.ycur.toNat 0 data s.bufs.bitmap
    rw [exec_escBitimg_of_ok hm, encode, Code.stream, decodeBytes_bitImage_columns htext mode hlen.le hm,
      State.afterColumns, if_pos hlen]
    rfl
  | txt b =>
    have hb : b ≠ escByte := by simpa [Instr.wf] using hwf
    rw [encode, Code.stream, decodeBytes_cons (decodeStep_text htext hb)]
    rfl
  | escUnrec sel =>
    have hsel : selectorClass s.cfg sel = .unrec := by simpa [Instr.wf] using hwf
    rw [encode, Code.stream, decodeBytes_selector htext, hsel]
    rfl
  | escReset =>
    rw [encode, Code.stream, decodeBytes_selector htext]
    rfl
  | escPitch =>
    rw [encode, Code.stream, decodeBytes_selector htext, selectorClass_pitchSel hc]
    rfl
  | escLsp n =>
    rw [encode, Code.stream, decodeBytes_selector htext]
    exact congrArg unlessFault (decodeBytes_operand s n)
  | escFam n =>
    rw [encode, Code.stream, decodeBytes_selector htext, selectorClass_fontSel hc]
    exact congrArg unlessFault (decodeBytes_operand s n)
  | nop | readUntil | readBlock | readFrame | send | transactS | transactG | decode | badOp7
  | badOp8F | badReserved => cases hi

/-- Settles O29: DECODE's steps are the byte-wise machine's, and those are the command's. -/
theorem streamCommandIsItsBytes : Obligations.StreamCommandIsItsBytes := by
  intro s i hs hp htext hi hwf hat
  rw [← encode_stream_length hi hwf, repeatExec_decode hp (hs.streamFits (by rw [hp]; rfl)) hat]
  exact decodeBytes_encode hs.cfgLegal htext hi hwf

/-! ## A command cut short (O30) -/

/-- `u` is the state after the first `n` bytes of the command `i`, which stands at POS of `s`, and inside
it: its received columns are painted, and only the decoder's registers are changed besides (R178). -/
structure State.CutShort (s : State) (i : Instr) (n : Nat) (u : State) : Prop where
  inside : u.rd.pstate ≠ .text
  cmdstart : u.rd.cmdstart = s.rd.pos
  pos : u.rd.pos = s.rd.pos + BitVec.ofNat 32 n
  painted : paintColumns s.cfg s.regs.ycur.toNat 0 (dataBefore n i) s.bufs.bitmap = .ok u.bufs.bitmap
  rest : u = { s with bufs := { s.bufs with bitmap := u.bufs.bitmap }, rd := u.rd }

/-- Before any data byte nothing is painted. -/
theorem State.cutShort_inside (s : State) {i : Instr} {n : Nat} {p : PState} (hp : p ≠ .text)
    (hdata : dataBefore n i = []) : s.CutShort i n (s.inside n p) :=
  ⟨hp, rfl, rfl, by rw [hdata]; rfl, rfl⟩

/-- A bit-image command is cut short at every one of its bytes but the last. -/
theorem decodeBytes_take_bitImage {s : State} (hc : s.cfg.Legal) (htext : s.rd.pstate = .text)
    (mode : Byte) {nx : BitVec 16} {data : List Byte} (hlen : data.length = nx.toNat) {n : Nat}
    (hpos : 0 < n) (hlt : n < 5 + nx.toNat) :
    ∃ u, decodeBytes ((encode s.cfg (.escBitimg mode nx data)).stream.take n) s = .ok u ∧
      s.CutShort (.escBitimg mode nx data) n u := by
  have hselector := decodeBytes_selector htext 0x2A
  by_cases h5 : n < 5
  · obtain rfl | rfl | rfl | rfl : n = 1 ∨ n = 2 ∨ n = 3 ∨ n = 4 := by omega
    · exact ⟨_, decodeBytes_cons (decodeStep_escape htext) [], s.cutShort_inside nofun rfl⟩
    · exact ⟨_, hselector [], s.cutShort_inside nofun rfl⟩
    · exact ⟨_, (hselector _).trans (decodeBytes_mode s mode), s.cutShort_inside nofun rfl⟩
    · exact ⟨_, (hselector _).trans ((decodeBytes_append (decodeBytes_mode s mode) _).trans
        (decodeBytes_nl s _)), nofun, rfl, rfl, rfl, rfl⟩
  · obtain ⟨k, rfl⟩ : ∃ k, n = 5 + k := ⟨n - 5, by omega⟩
    have hk : (data.take k).length = k := by rw [List.length_take]; omega
    obtain ⟨m, hm⟩ := paintColumns_ok hc s.regs.ycur.toNat 0 (data.take k) s.bufs.bitmap
    have hbytes := decodeBytes_bitImage_columns htext mode (nx := nx) (by omega) hm
    rw [hk, State.afterColumns, if_neg (by omega)] at hbytes
    have hdata : dataBefore (5 + k) (.escBitimg mode nx data) = data.take k := by
      rw [dataBefore, Nat.add_sub_cancel_left]
    have htake : (encode s.cfg (.escBitimg mode nx data)).stream.take (5 + k) =
        escByte :: 0x2A :: mode :: nx.extractLsb' 0 8 :: nx.extractLsb' 8 8 :: data.take k := by
      rw [Nat.add_comm]
      rfl
    have hinside : PState.biData ≠ .text := nofun
    exact ⟨_, htake ▸ hbytes, hinside, rfl, rfl, hdata ▸ hm, rfl⟩

/-- The byte-wise machine over a proper front of a command ends inside it (R96, R162). -/
theorem decodeBytes_take_encode {s : State} {i : Instr} (hc : s.cfg.Legal) (htext : s.rd.pstate = .text)
    (hi : i.isCommand = false) (hwf : i.wf s.cfg = true) {n : Nat} (hpos : 0 < n) (hlt : n < i.length) :
    ∃ u, decodeBytes ((encode s.cfg i).stream.take n) s = .ok u ∧ s.CutShort i n u := by
  have hescape : ∃ u, decodeBytes [escByte] s = .ok u ∧ s.CutShort i 1 u :=
    ⟨_, decodeBytes_cons (decodeStep_escape htext) [], s.cutShort_inside nofun (by cases i <;> rfl)⟩
  cases i with
  | escBitimg mode nx data =>
    exact decodeBytes_take_bitImage hc htext mode (by simpa [Instr.wf] using hwf) hpos hlt
  | txt b => exact absurd hlt (Nat.not_lt.mpr hpos)
  | escReset | escPitch | escUnrec =>
    obtain rfl : n = 1 := by simp only [Instr.length] at hlt; omega
    exact hescape
  | escLsp =>
    obtain rfl | rfl : n = 1 ∨ n = 2 := by simp only [Instr.length] at hlt; omega
    · exact hescape
    · exact ⟨_, decodeBytes_selector htext 0x41 [], s.cutShort_inside nofun rfl⟩
  | escFam =>
    obtain rfl | rfl : n = 1 ∨ n = 2 := by simp only [Instr.length] at hlt; omega
    · exact hescape
    · have hselector := decodeBytes_selector htext s.cfg.fontSel []
      rw [selectorClass_fontSel hc] at hselector
      exact ⟨_, hselector, s.cutShort_inside nofun rfl⟩
  | nop | readUntil | readBlock | readFrame | send | transactS | transactG | decode | badOp7
  | badOp8F | badReserved => cases hi

/-- A proper front of a command is no item of the stream: an item read from it would be the command
itself, with no byte left (R96, R102). -/
theorem decodeStream_take_encode {c : Config} {i : Instr} (hc : c.Legal) (hi : i.isCommand = false)
    (hwf : i.wf c = true) {n : Nat} (hlt : n < i.length) :
    ∃ e, decodeStream c ((encode c i).stream.take n) = .error e := by
  cases hd : decodeStream c ((encode c i).stream.take n) with
  | error e => exact ⟨e, rfl⟩
  | ok r =>
    obtain ⟨j, rest⟩ := r
    obtain ⟨hj, hjwf, hbytes⟩ := decodedStreamItemReencodes c _ rest j hd
    have hwhole : (encode c j).stream ++ (rest ++ (encode c i).stream.drop n) = (encode c i).stream ++ [] := by
      rw [← List.append_assoc, hbytes, List.take_append_drop, List.append_nil]
    have hsame := congrArg (decodeStream c) hwhole
    rw [decodeStream_encode hc hj hjwf, decodeStream_encode hc hi hwf, Except.ok.injEq, Prod.mk.injEq,
      List.append_eq_nil_iff, List.drop_eq_nil_iff, encode_stream_length hi hwf] at hsame
    omega

/-- PAYLEN ends inside the command `i`, which begins at POS: its first `n` bytes are the last of the stream
(R96 `partial`, R178). -/
structure State.EndsInside (s : State) (i : Instr) (n : Nat) : Prop where
  inv : s.Inv
  phase : s.phase = .decode .loop
  text : s.rd.pstate = .text
  stream : i.isCommand = false
  wf : i.wf s.cfg = true
  proper : n < i.length
  front : s.StreamAt ((encode s.cfg i).stream.take n)
  atEnd : s.rd.pos.toNat + n = s.regs.paylen.toNat

section
variable {s : State} {i : Instr} {n : Nat}

theorem State.EndsInside.streamFits (h : s.EndsInside i n) : s.regs.paylen.toNat ≤ s.cfg.payloadCap :=
  h.inv.streamFits (by rw [h.phase]; rfl)

/-- No whole command stands at POS. -/
theorem State.EndsInside.nextCommand (h : s.EndsInside i n) : s.nextCommand = none := by
  obtain ⟨tail, htail⟩ := h.front.streamBytes h.streamFits
  have hlen := congrArg List.length htail
  have hcap := h.streamFits
  have hend := h.atEnd
  have hlt := h.proper
  simp only [State.streamBytes, List.length_map, List.length_range', List.length_append, List.length_take,
    encode_stream_length h.stream h.wf] at hlen
  obtain rfl : tail = [] := List.length_eq_zero_iff.mp (by omega)
  rw [List.append_nil] at htail
  obtain ⟨e, he⟩ := decodeStream_take_encode h.inv.cfgLegal h.stream h.wf hlt
  exact State.nextCommand_of_error (htail ▸ he)

/-- DECODE's steps over the bytes received. -/
theorem State.EndsInside.exists_cutShort (h : s.EndsInside i n) {k : Nat} (hk : 0 < k) (hkn : k ≤ n) :
    ∃ u, repeatExec s.decodeInstr k s = .next u ∧ s.CutShort i k u := by
  have hlt := h.proper
  obtain ⟨u, hu, hcut⟩ := decodeBytes_take_encode h.inv.cfgLegal h.text h.stream h.wf hk (by omega)
  have hfront := h.front.take k
  rw [List.take_take, Nat.min_eq_left hkn] at hfront
  have hlen : ((encode s.cfg i).stream.take k).length = k := by
    rw [List.length_take, encode_stream_length h.stream h.wf]
    omega
  have hrun := repeatExec_decode h.phase h.streamFits hfront
  rw [hlen, hu] at hrun
  exact ⟨u, hrun, hcut⟩

/-- Inside a command the block runs DECODE's own word, that of `s`. -/
theorem State.CutShort.nextInstr_eq {u : State} (h : s.CutShort i n u) (hp : s.phase = .decode .loop) :
    u.nextInstr = some s.decodeInstr := by
  have hup : u.phase = .decode .loop := by rw [h.rest]; exact hp
  have hinstr : u.decodeInstr = s.decodeInstr := by rw [h.rest]; rfl
  rw [← hinstr]
  exact State.nextInstr_decodeLoop hup (State.nextCommand_inside h.inside)

/-- On a block left alone the machine's steps are DECODE's own, `EndDecode` among them (R160). -/
theorem State.EndsInside.run_eq_repeatExec (h : s.EndsInside i n) (hts : s.env.turns = []) :
    s.run (n + 1) = repeatExec s.decodeInstr (n + 1) s := by
  refine State.run_eq_repeatExec fun k hk v hv => ?_
  obtain rfl | hk0 : k = 0 ∨ 0 < k := by omega
  · cases hv
    exact step_of_exhausted hts (State.nextInstr_decodeLoop h.phase h.nextCommand)
  · obtain ⟨u, hu, hcut⟩ := h.exists_cutShort hk0 (by omega)
    cases hv.symm.trans hu
    exact step_of_exhausted (by rw [hcut.rest]; exact hts) (hcut.nextInstr_eq h.phase)

/-- The last byte received is the last before PAYLEN, so the next step is DECODE's end (R160, R178). -/
theorem State.CutShort.exec_end {u : State} (hcut : s.CutShort i n u) (h : s.EndsInside i n) :
    exec s.decodeInstr u = .next { u with
      phase := .idle
      status := { u.status with done := true, malformed := true }
      regs := { u.regs with decpos := s.rd.pos } } := by
  have hup : u.phase = .decode .loop := by rw [hcut.rest]; exact h.phase
  have hregs : u.regs = s.regs := by rw [hcut.rest]
  have hpaylen := s.regs.paylen.isLt
  have hatEnd := h.atEnd
  have hend : u.regs.paylen.toNat ≤ u.rd.pos.toNat := by
    rw [hregs, hcut.pos, BitVec.toNat_add, BitVec.toNat_ofNat]
    omega
  rw [State.decodeInstr, exec_decode_end hup _ _ _ hend, State.endDecode_inside hcut.inside, hcut.cmdstart]
  rfl

end

/-- Settles O30: DECODE's steps end inside the command, where `EndDecode` reports its escape byte. -/
theorem truncatedCommandIsMalformed : Obligations.TruncatedCommandIsMalformed := by
  intro s i n hs hp htext hi hwf hpos hlt hat hend
  have hinside : s.EndsInside i n := ⟨hs, hp, htext, hi, hwf, hlt, hat, hend⟩
  obtain ⟨u, hrun, hcut⟩ := hinside.exists_cutShort hpos le_rfl
  have hall := (repeatExec_snoc hrun).trans (hcut.exec_end hinside)
  refine ⟨_, hall, fun hts => (hinside.run_eq_repeatExec hts).trans hall, rfl, ?_, ?_, ?_, ?_, ?_, ?_, ?_,
    fun x y hx hy => hs.pixel_paintColumns hcut.painted hx hy⟩ <;> rw [hcut.rest]

/-! ## A step of DECODE's loop -/

/-- On a block left alone a step of DECODE's loop is the whole command at POS, one byte, or the end (R160,
R164). -/
theorem step_decodeLoop {s : State} (hts : s.env.turns = []) (hp : s.phase = .decode .loop) :
    (∃ i, s.nextCommand = some i ∧ step s = exec i s) ∨
    (s.nextCommand = none ∧ s.rd.pos.toNat < s.regs.paylen.toNat ∧ step s = unlessFault (decodeByte s)) ∨
    (s.regs.paylen.toNat ≤ s.rd.pos.toNat ∧ step s = .next s.endDecode.finish) := by
  cases hn : s.nextCommand with
  | some i => exact .inl ⟨i, rfl, step_of_exhausted hts (by simp only [State.nextInstr, hp, hn])⟩
  | none =>
    have hstep := step_of_exhausted hts (State.nextInstr_decodeLoop hp hn)
    by_cases hlt : s.rd.pos.toNat < s.regs.paylen.toNat
    · exact .inr (.inl ⟨rfl, hlt, hstep.trans (exec_decode_byte hp _ _ _ hlt)⟩)
    · have hend := Nat.not_lt.mp hlt
      exact .inr (.inr ⟨hend, hstep.trans (exec_decode_end hp _ _ _ hend)⟩)

theorem unlessFault_next {p : Except Fault State} {t : State} (h : unlessFault p = .next t) : p = .ok t := by
  cases p with
  | ok u => cases h; rfl
  | error f => cases h

/-! ## Every decode ends (O32) -/

/-- What a decode leaves alone: all but the bitmap, the cursor, the count, DECPOS, PHASE, DONE, MALFORMED
and the decoder's own registers (R180). -/
structure State.DecodeLeaves (s t : State) : Prop where
  cfg : t.cfg = s.cfg
  env : t.env = s.env
  fr : t.fr = s.fr
  latch : t.latch = s.latch
  bufs : t.bufs = { s.bufs with bitmap := t.bufs.bitmap }
  regs : t.regs = { s.regs with
    ycur := t.regs.ycur, unrec := t.regs.unrec, decpos := t.regs.decpos }
  status : t.status = { s.status with done := t.status.done, malformed := t.status.malformed }

theorem State.DecodeLeaves.trans {s t u : State} (h : s.DecodeLeaves t) (h' : t.DecodeLeaves u) :
    s.DecodeLeaves u where
  cfg := h'.cfg.trans h.cfg
  env := h'.env.trans h.env
  fr := h'.fr.trans h.fr
  latch := h'.latch.trans h.latch
  bufs := by rw [h'.bufs, h.bufs]
  regs := by rw [h'.regs, h.regs]
  status := by rw [h'.status, h.status]

theorem decodeStep_leaves {b : Byte} {s t : State} (h : decodeStep b s = .ok t) : s.DecodeLeaves t := by
  cases hp : s.rd.pstate <;> simp only [decodeStep, hp] at h
  case text | esc | biNh => split at h <;> cases h <;> exact ⟨rfl, rfl, rfl, rfl, rfl, rfl, rfl⟩
  case biMode | biNl | operand => cases h; exact ⟨rfl, rfl, rfl, rfl, rfl, rfl, rfl⟩
  case biData =>
    split at h
    · cases h
    · split at h <;> cases h <;> exact ⟨rfl, rfl, rfl, rfl, rfl, rfl, rfl⟩

theorem decodeByte_leaves {s t : State} (h : decodeByte s = .ok t) : s.DecodeLeaves t :=
  { decodeStep_leaves (decodeByte_ok h) with }

theorem exec_stream_leaves {i : Instr} (hi : i.isCommand = false) {s t : State}
    (h : exec i s = .next t) : s.DecodeLeaves t := by
  cases i with
  | escBitimg mode nx data =>
    obtain ⟨m, -, rfl⟩ := execEscBitimg_ok (mode := mode) h
    exact ⟨rfl, rfl, rfl, rfl, rfl, rfl, rfl⟩
  | escReset | escLsp | escFam | escPitch | escUnrec | txt =>
    cases h; exact ⟨rfl, rfl, rfl, rfl, rfl, rfl, rfl⟩
  | nop | readUntil | readBlock | readFrame | send | transactS | transactG | decode | badOp7
  | badOp8F | badReserved => cases hi

theorem State.endDecode_leaves (s : State) : s.DecodeLeaves s.endDecode.finish := by
  unfold State.endDecode
  split <;> exact ⟨rfl, rfl, rfl, rfl, rfl, rfl, rfl⟩

/-- Every item of the stream has a byte at least (R100). -/
theorem instr_length_pos (i : Instr) : 0 < i.length := by
  cases i <;> simp only [Instr.length] <;> omega

/-- A step of DECODE's loop before PAYLEN consumes a byte or more, and the loop goes on. -/
theorem step_decodeLoop_progress {s : State} (hs : s.Inv) (hts : s.env.turns = [])
    (hp : s.phase = .decode .loop) (hlt : s.rd.pos.toNat < s.regs.paylen.toNat) :
    ∃ t n, step s = .next t ∧ 0 < n ∧ s.rd.pos.toNat + n ≤ s.regs.paylen.toNat ∧ s.Consumes n t ∧
      s.DecodeLeaves t := by
  obtain ⟨i, hn, hstep⟩ | ⟨-, -, hstep⟩ | ⟨hend, -⟩ := step_decodeLoop hts hp
  · obtain ⟨-, rest, hdec⟩ := State.nextCommand_some hn
    have hi := (decodeStream_ok hdec).1
    obtain ⟨t, hexec, -⟩ := exec_stream_draws hi hs.cfgLegal
    exact ⟨t, i.length, hstep.trans hexec, instr_length_pos i, State.nextCommand_fits hn (hs.posFits hp),
      exec_stream_consumes hi hexec, exec_stream_leaves hi hexec⟩
  · cases hd : decodeByte s with
    | error f => exact absurd hd (decodeByte_no_fault hs hp hlt f)
    | ok t =>
      rw [hd] at hstep
      exact ⟨t, 1, hstep, Nat.one_pos, hlt, decodeByte_consumes hd, decodeByte_leaves hd⟩
  · omega

/-- From any state of DECODE's loop the decode ends, by induction on the bytes left. -/
theorem decodeLoop_ends {left : Nat} {s : State} (hs : s.Inv) (hts : s.env.turns = [])
    (hp : s.phase = .decode .loop) (hleft : s.regs.paylen.toNat - s.rd.pos.toNat = left) :
    ∃ k t, k ≤ left + 1 ∧ s.run k = .next t ∧ t.phase = .idle ∧ t.status.done = true ∧
      s.DecodeLeaves t := by
  induction left using Nat.strong_induction_on generalizing s with
  | _ left ih =>
    by_cases hlt : s.rd.pos.toNat < s.regs.paylen.toNat
    · obtain ⟨u, n, hstep, hn, hfits, hcons, hleaves⟩ := step_decodeLoop_progress hs hts hp hlt
      have hpaylen := s.regs.paylen.isLt
      have hpos : u.rd.pos.toNat = s.rd.pos.toNat + n := by
        rw [hcons.pos, BitVec.toNat_add, BitVec.toNat_ofNat]
        omega
      obtain ⟨k, t, hk, hrun, hidle, hdone, hrest⟩ := ih _ (by rw [hcons.paylen, hpos]; omega)
        (everyStepKeepsTheInvariant s u hs hstep) (by rw [hleaves.env]; exact hts)
        (hcons.phase.trans hp) rfl
      rw [hcons.paylen, hpos] at hk
      exact ⟨k + 1, t, by omega, (State.run_succ hstep k).trans hrun, hidle, hdone, hleaves.trans hrest⟩
    · exact ⟨1, s.endDecode.finish, by omega,
        (s.run_one).trans (step_decodeEnd hts hp (Nat.not_lt.mp hlt)), rfl, rfl, s.endDecode_leaves⟩

/-- The state in which DECODE's loop begins, for a DECODE written to `s`: accepted with the latched fields
`l`, and the bitmap and the decoder cleared (R88, R89, R160, R161). -/
def State.decodeBegun (s : State) (l : Latch) : State :=
  (s.clearDecodeResults.accept l (.decode .clear)).startDecode.enter (.decode .loop)

theorem step_decodeBegun {s : State} (hts : s.env.turns = []) (l : Latch) :
    step (s.clearDecodeResults.accept l (.decode .clear)) = .next (s.decodeBegun l) :=
  step_decodeClear (s := s.clearDecodeResults.accept l (.decode .clear)) hts rfl

/-- Settles O32: the clear, and the loop from POS = 0. -/
theorem decodeAlwaysEnds : Obligations.DecodeAlwaysEnds := by
  intro s stop bufsel kind hs hp hts hfits
  have hexec := exec_decode_idle hp stop bufsel kind hfits
  have hinv := (exec_command_moves rfl hexec).inv hs
  have hclear := step_decodeBegun hts ⟨stop, bufsel, kind⟩
  obtain ⟨k, t, hk, hrun, hidle, hdone, hleaves⟩ :=
    decodeLoop_ends (everyStepKeepsTheInvariant _ _ hinv hclear) hts rfl rfl
  refine ⟨_, k + 1, t, hexec, Nat.succ_le_succ hk, (State.run_succ hclear k).trans hrun, hidle,
    hleaves.latch, ?_, hleaves.env, hleaves.cfg, hleaves.fr, hleaves.bufs, hleaves.regs⟩
  rw [hleaves.status, hdone]
  rfl

/-! ## What a decode depends on (O34) -/

/-- The machine `o` with the decoder of `s`: its configuration, phase and registers, the stream and the
bitmap (R180). -/
def State.around (s o : State) : State :=
  { o with
    cfg := s.cfg
    phase := s.phase
    status := { o.status with malformed := s.status.malformed }
    regs := { o.regs with
      paylen := s.regs.paylen, ycur := s.regs.ycur, unrec := s.regs.unrec }
    bufs := { o.bufs with payload := s.bufs.payload, bitmap := s.bufs.bitmap }
    rd := s.rd }

@[simp] theorem State.around_cfg (s o : State) : (s.around o).cfg = s.cfg := rfl
@[simp] theorem State.around_rd (s o : State) : (s.around o).rd = s.rd := rfl
@[simp] theorem State.around_nextCommand (s o : State) : (s.around o).nextCommand = s.nextCommand := rfl

/-- The decoder sees no more of the machine than its own part. -/
theorem decodeStep_around {b : Byte} {s t : State} (o : State) (h : decodeStep b s = .ok t) :
    decodeStep b (s.around o) = .ok (t.around o) := by
  cases hp : s.rd.pstate with
  | text =>
    simp only [decodeStep, State.around_rd, hp] at h ⊢
    split at h <;> cases h
    · exact if_pos ‹_›
    · exact if_neg ‹_›
  | esc =>
    simp only [decodeStep, State.around_rd, State.around_cfg, hp] at h ⊢
    cases hsel : selectorClass s.cfg b <;> simp only [hsel] at h ⊢ <;> cases h <;> rfl
  | biMode | biNl | operand =>
    simp only [decodeStep, State.around_rd, hp] at h ⊢
    cases h
    rfl
  | biNh =>
    rw [decodeStep_biNh hp] at h
    rw [decodeStep_biNh (s := s.around o) hp]
    split at h <;> cases h
    · exact if_pos ‹_›
    · exact if_neg ‹_›
  | biData =>
    cases hm : paintColumn s.cfg s.rd.xc.toNat s.regs.ycur.toNat b s.bufs.bitmap with
    | error f => simp [decodeStep, hp, hm] at h
    | ok m =>
      rw [decodeStep_biData hp hm] at h
      rw [decodeStep_biData (s := s.around o) hp hm]
      split at h <;> cases h
      · exact if_pos ‹_›
      · exact if_neg ‹_›

theorem decodeByte_around {s t : State} (o : State) (h : decodeByte s = .ok t) :
    decodeByte (s.around o) = .ok (t.around o) := by
  unfold decodeByte at h
  split at h
  · cases h
  · rename_i b hb
    have hread : (s.around o).blockRead .payload (s.around o).rd.pos.toNat = .ok b := hb
    simp only [decodeByte, hread]
    exact decodeStep_around o h

theorem exec_stream_around {i : Instr} (hi : i.isCommand = false) {s t : State} (o : State)
    (h : exec i s = .next t) : exec i (s.around o) = .next (t.around o) := by
  cases i with
  | escBitimg mode nx data =>
    obtain ⟨m, hm, rfl⟩ := execEscBitimg_ok (mode := mode) h
    exact exec_escBitimg_of_ok (s := s.around o) hm mode nx
  | escReset | escLsp | escFam | escPitch | escUnrec | txt => cases h; rfl
  | nop | readUntil | readBlock | readFrame | send | transactS | transactG | decode | badOp7
  | badOp8F | badReserved => cases hi

/-- The registers and the picture a decode reports (R179). -/
structure State.SameResult (t t' : State) : Prop where
  bitmap : t'.bufs.bitmap = t.bufs.bitmap
  ycur : t'.regs.ycur = t.regs.ycur
  unrec : t'.regs.unrec = t.regs.unrec
  decpos : t'.regs.decpos = t.regs.decpos
  malformed : t'.status.malformed = t.status.malformed

theorem State.endDecode_around (s o : State) :
    s.endDecode.finish.SameResult (s.around o).endDecode.finish := by
  by_cases htext : s.rd.pstate = .text
  · rw [State.endDecode_text htext, State.endDecode_text (s := s.around o) htext]
    exact ⟨rfl, rfl, rfl, rfl, rfl⟩
  · rw [State.endDecode_inside htext, State.endDecode_inside (s := s.around o) htext]
    exact ⟨rfl, rfl, rfl, rfl, rfl⟩

/-- A step of DECODE's loop is the same step in any machine around the decoder, also where it ends. -/
theorem step_decodeLoop_around {s t o : State} (hts : s.env.turns = []) (hto : o.env.turns = [])
    (hp : s.phase = .decode .loop) (h : step s = .next t) :
    (t.env.turns = [] ∧ t.phase = .decode .loop ∧ step (s.around o) = .next (t.around o)) ∨
    (t = s.endDecode.finish ∧ step (s.around o) = .next (s.around o).endDecode.finish) := by
  have hpo : (s.around o).phase = .decode .loop := hp
  obtain ⟨i, hn, hstep⟩ | ⟨hn, hlt, hstep⟩ | ⟨hend, hstep⟩ := step_decodeLoop hts hp <;> rw [hstep] at h
  · obtain ⟨-, rest, hdec⟩ := State.nextCommand_some hn
    have hi := (decodeStream_ok hdec).1
    refine .inl ⟨(exec_stream_leaves hi h).env ▸ hts, (exec_stream_consumes hi h).phase.trans hp, ?_⟩
    rw [step_of_exhausted (s := s.around o) (i := i) hto (by simp only [State.nextInstr, hpo,
      State.around_nextCommand, hn])]
    exact exec_stream_around hi o h
  · have hbyte := unlessFault_next h
    refine .inl ⟨(decodeByte_leaves hbyte).env ▸ hts, (decodeByte_consumes hbyte).phase.trans hp, ?_⟩
    rw [step_of_exhausted (s := s.around o) hto (State.nextInstr_decodeLoop hpo hn), State.decodeInstr,
      exec_decode_byte hpo _ _ _ hlt, decodeByte_around o hbyte]
    rfl
  · cases h
    exact .inr ⟨rfl, step_decodeEnd (s := s.around o) hto hpo hend⟩

theorem State.run_succ_next {s t : State} {k : Nat} (h : s.run (k + 1) = .next t) :
    ∃ u, step s = .next u ∧ u.run k = .next t := by
  cases hs : step s with
  | next u => exact ⟨u, rfl, State.run_succ hs k ▸ h⟩
  | fault f => simp [State.run, Host.Core.run, core, hs] at h
  | refused r => simp [State.run, Host.Core.run, core, hs] at h

/-- An idle block left alone stays as it is (R230). -/
theorem State.run_idle {s : State} (hts : s.env.turns = []) (hp : s.phase = .idle) (k : Nat) :
    s.run k = .next s := by
  have hstep : step s = .next s := by
    rw [step_of_nextInstr_none (.inl ⟨hts, rfl⟩) (by simp only [State.nextInstr, hp]),
      State.setTurns_eq_self hts]
  induction k with
  | zero => rfl
  | succ k ih => rw [State.run_succ hstep, ih]

/-- A decode ends in the same step and with the same result in any machine around the decoder. -/
theorem decodeLoop_around {k : Nat} {s t o : State} (hts : s.env.turns = []) (hto : o.env.turns = [])
    (hp : s.phase = .decode .loop) (hrun : s.run k = .next t) (hidle : t.phase = .idle) :
    ∃ t', (s.around o).run k = .next t' ∧ t'.phase = .idle ∧ t.SameResult t' := by
  induction k generalizing s with
  | zero =>
    cases hrun
    rw [hp] at hidle
    cases hidle
  | succ k ih =>
    obtain ⟨u, hstep, hrest⟩ := State.run_succ_next hrun
    obtain ⟨hut, hup, hstepo⟩ | ⟨rfl, hstepo⟩ := step_decodeLoop_around hts hto hp hstep
    · obtain ⟨t', hrun', hresult⟩ := ih hut hup hrest
      exact ⟨t', (State.run_succ hstepo k).trans hrun', hresult⟩
    · have hend : s.endDecode.finish.env.turns = [] := s.endDecode_leaves.env ▸ hts
      rw [State.run_idle hend rfl] at hrest
      cases hrest
      refine ⟨_, (State.run_succ hstepo k).trans (State.run_idle ?_ rfl k), rfl, s.endDecode_around o⟩
      rw [(s.around o).endDecode_leaves.env]
      exact hto

/-- Two decodes of one payload in one configuration begin their loops with the same decoder (R161, R179). -/
theorem State.decodeBegun_around {s s' : State} (l l' : Latch) (hcfg : s.cfg = s'.cfg)
    (hpaylen : s.regs.paylen = s'.regs.paylen) (hpayload : s.bufs.payload = s'.bufs.payload) :
    (s.decodeBegun l).around (s'.decodeBegun l') = s'.decodeBegun l' := by
  simp only [State.around, State.decodeBegun, State.enter, State.startDecode, State.accept,
    State.clearDecodeResults, hcfg, hpaylen, hpayload]

/-- Settles O34: after the clear the second machine has the first one's decoder. -/
theorem decodeDependsOnlyOnThePayload : Obligations.DecodeDependsOnlyOnThePayload := by
  intro s s' s1 s1' t k stop stop' bufsel bufsel' kind kind' _ _ hp hp' hts hts' hcfg hpaylen hpayload hfits
    hexec hexec' hrun hidle
  have hfits' : s'.regs.paylen.toNat ≤ s'.cfg.payloadCap := by rw [← hpaylen, ← hcfg]; exact hfits
  cases (exec_decode_idle hp stop bufsel kind hfits).symm.trans hexec
  cases (exec_decode_idle hp' stop' bufsel' kind' hfits').symm.trans hexec'
  cases k with
  | zero => cases hrun; cases hidle
  | succ k =>
    obtain ⟨u, hstep, hrest⟩ := State.run_succ_next hrun
    cases (step_decodeBegun hts ⟨stop, bufsel, kind⟩).symm.trans hstep
    obtain ⟨t', hrun', hidle', hsame⟩ := decodeLoop_around
      (s := s.decodeBegun ⟨stop, bufsel, kind⟩) (o := s'.decodeBegun ⟨stop', bufsel', kind'⟩)
      hts hts' rfl hrest hidle
    rw [State.decodeBegun_around _ _ hcfg hpaylen hpayload] at hrun'
    exact ⟨t', (State.run_succ (step_decodeBegun hts' _) k).trans hrun', hidle', hsame.bitmap, hsame.ycur,
      hsame.unrec, hsame.decpos, hsame.malformed⟩

end Sys2Proof.Machine

/-! PROOFS. The statement of spec/42_bitmap_sink.md: the sink's body is BITMAP, byte by byte and pixel by
pixel. -/

namespace Sys2Proof.Machine

@[simp] theorem State.length_dump (s : State) (sp : Space) (n : Nat) : (s.dump sp n).length = n := by
  simp [State.dump]

/-- A buffer's dump holds the buffer's bytes, each at its own index. -/
theorem State.getD_dump (s : State) (sp : Space) {n i : Nat} (hi : i < n) :
    (s.dump sp n).getD i 0 = s.byteAt sp i := by
  rw [List.getD_eq_getElem _ _ (by rwa [s.length_dump])]
  simp [State.dump]

/-- A pixel is bit `7 - x mod 8` of the byte of BITMAP that holds it (R64). -/
theorem State.pixel_eq_getLsbD_byteAt (s : State) (x y : Nat) :
    pixel s.cfg s.bufs.bitmap x y = (s.byteAt .bitmap (pixelByte s.cfg x y)).getLsbD (7 - x % 8) := rfl

/-- Settles O41: the body is the dump of BITMAP, and in a legal configuration the byte of every pixel inside
the bitmap lies in it (R202, R64). -/
theorem sinkBodyIsTheBitmap : Obligations.SinkBodyIsTheBitmap := by
  intro s creator hc
  refine ⟨s.dump .bitmap (Space.bitmap.size s.cfg), rfl, s.length_dump _ _, fun i hi => ?_,
    fun x y hx hy => ?_⟩
  · exact s.getD_dump .bitmap (by rwa [s.length_dump] at hi)
  · have hbyte : (s.dump .bitmap (Space.bitmap.size s.cfg)).getD (pixelByte s.cfg x y) 0 =
        s.byteAt .bitmap (pixelByte s.cfg x y) := s.getD_dump .bitmap (pixelByte_lt_size hc hx hy)
    rw [s.pixel_eq_getLsbD_byteAt, ← hbyte, pixelByte]

end Sys2Proof.Machine

/-! PROOFS. The statement of spec/60_exceptions.md on liveness: a read whose channel never answers never
ends. -/

namespace Sys2Proof.Machine

/-- A step that changes nothing is all that any number of steps do. -/
theorem State.run_of_step_self {s : State} (h : step s = .next s) (k : Nat) : s.run k = .next s := by
  induction k with
  | zero => rfl
  | succ k ih => rw [State.run_succ h, ih]

theorem readByte_unanswered {s : State} (h : s.env.reads = []) : readByte s = .wait := by
  simp only [readByte, h]

/-- While the channel has not answered, the step of a read is not taken, its first lines included
(R225, R227). -/
theorem step_unanswered {s : State} (hp : s.phase.reads = true) (hts : s.env.turns = [])
    (hreads : s.env.reads = []) : step s = .next s := by
  obtain ⟨u, onByte, h⟩ := State.exists_reads hp hts
  rw [h.step, readByte_unanswered (h.env ▸ hreads), ByteRead.outcome]

/-- Settles O25: the step of an unanswered read is a stutter, and so is any number of them. -/
theorem unansweredReadHangs : Obligations.UnansweredReadHangs := by
  intro s k hp hts hreads
  exact State.run_of_step_self (step_unanswered hp hts hreads) k

end Sys2Proof.Machine

/-! PROOFS. The statement of spec/70_reset_and_hazards.md: a reset step gives every piece of the block's
state the value of R242. -/

namespace Sys2Proof.Machine

/-- The reset input is taken whatever the block was doing (R240). -/
theorem step_of_reset {s : State} {ts : List Turn} (h : s.env.turns = .reset :: ts) :
    step s = .next (s.setTurns ts).resetBlock := by
  simp only [step, h]

/-- After reset every byte of every buffer is 0x00 (R242). -/
@[simp] theorem State.resetBlock_byteAt (s : State) (sp : Space) (i : Nat) :
    s.resetBlock.byteAt sp i = 0 := by
  have hempty : s.resetBlock.bufs.get sp = [] := State.resetWith_get s.cfg sp
  rw [State.byteAt, hempty, Memory.read, unlistedByte]

/-- After reset STATUS reads as 0x00000000 (R242). -/
theorem State.resetBlock_statusWord (s : State) :
    s.resetBlock.status.word s.resetBlock.busy = 0 := by
  simp only [State.busy_idle _ s.resetBlock_phase, State.resetBlock_status, State.resetWith]
  decide

/-- Settles O42: the step leaves `resetBlock` of the state whose schedule has used the turn up, and each row
of R242 is one component of it. -/
theorem resetStepRestoresEverything : Obligations.ResetStepRestoresEverything := by
  intro s ts hts
  exact ⟨_, step_of_reset hts, State.resetBlock_cfg _, State.resetBlock_env _, State.resetBlock_phase _,
    State.busy_idle _ (State.resetBlock_phase _), State.resetBlock_status _, State.resetBlock_statusWord _,
    State.resetBlock_regs _, State.resetBlock_byteAt _, State.resetBlock_latch _, State.resetBlock_fr _,
    State.resetBlock_rd _⟩

end Sys2Proof.Machine
